-- ==== Sys2Proof/Word.lean ====
section
/-! DEFINITION. The two data widths of the block (R8, R10) and one evaluation aid. -/

namespace Sys2Proof

/-- A 32-bit word: accumulator, table entry, GF(2) vector, matrix column, register (R8 `W`, R10). -/
abbrev Word := BitVec 32

/-- An 8-bit byte, the unit of the buffer (R8). -/
abbrev Byte := BitVec 8

/-- `w.strict k` is `k w` (`Word.strict_eq`).  It says nothing about the hardware: the match on the
value makes an evaluator compute `w` before it goes on, so that a long pass over a buffer stays
shallow when Lean's kernel runs it. -/
def Word.strict {α : Type} (w : Word) (k : Word → α) : α :=
  match w.toNat with
  | 0 => k 0#32
  | n + 1 => k (BitVec.ofNat 32 (n + 1))

@[simp] theorem Word.strict_eq {α : Type} (w : Word) (k : Word → α) : Word.strict w k = k w := by
  unfold Word.strict
  split <;> rename_i h
  · congr 1
    exact BitVec.eq_of_toNat_eq (by simpa using h.symm)
  · congr 1
    exact BitVec.eq_of_toNat_eq (by
      rw [BitVec.toNat_ofNat, Nat.mod_eq_of_lt] <;> have := w.isLt <;> omega)

end Sys2Proof
end

