-- ==== Sys2Proof/Config.lean ====
section
/-! DEFINITION. What one implementation of the block fixes: the size of buffer memory (R9, D6). -/

namespace Sys2Proof

/-- The configuration of a block.  The spec leaves exactly one parameter open, `MEM_BYTES`, with
1 <= `MEM_BYTES` <= 2^32 (R9).  It is held as the highest valid byte address, a 32-bit address
(R60), so that the type admits every `MEM_BYTES` of that range and no other. -/
structure Config where
  lastAddr : BitVec 32
  deriving DecidableEq, Repr

/-- `MEM_BYTES`: valid byte addresses are 0 to `MEM_BYTES - 1` (R9, R60). -/
def Config.memBytes (c : Config) : Nat := c.lastAddr.toNat + 1

end Sys2Proof
end

