-- ==== Sys2Proof/Syntax.lean ====
section
/-! DEFINITION. The commands of the block: one constructor for each row of the opcode table (R82). -/

namespace Sys2Proof

/-- A command.  A command has no operand fields: every operand is in an operand register
(R80, R83), so no constructor has an argument.  `mvmulM` is the table's `mvmul.m` (flag `M`),
`compT` its `comp.t` (flag `T`). -/
inductive Instr where
  | nop
  | crc
  | zadv
  | mbuild
  | minv
  | mvmul
  | mvmulM
  | comp
  | compT
  deriving DecidableEq, Repr

end Sys2Proof
end

