-- ==== Sys2Proof/WellFormed.lean ====
section
/-! DEFINITION. Which command words are legal (R85).

An `Instr` carries no operand (R80, R83), so every term of it is well formed.  What can be ill
formed is the 32-bit word the host writes to `CMD`: the four conditions of R85, one check each. -/

namespace Sys2Proof

/-- Every command is well formed: it has no field that could be out of range (R80, R83). -/
def Instr.wf (_ : Instr) : Bool := true

/-- R85 item 1: the reserved fields `Z0` (bits 7:4) and `Z1` (bits 31:10) are 0. -/
def reservedBitsClear (w : Word) : Bool := w &&& 0xFFFFFCF0#32 == 0#32

/-- R85 item 2: `w[3:0] <= 6`. -/
def opcodeAssigned (w : Word) : Bool := (w &&& 0xF#32).toNat ≤ 6

/-- R85 item 3: `w[8] = 0`, or `w[3:0] = 6`. -/
def tailFlagLegal (w : Word) : Bool := !w.getLsbD 8 || w &&& 0xF#32 == 6#32

/-- R85 item 4: `w[9] = 0`, or `w[3:0] = 5`. -/
def matFlagLegal (w : Word) : Bool := !w.getLsbD 9 || w &&& 0xF#32 == 5#32

/-- R85: a command word is legal exactly when all four conditions hold. -/
def legalCommandWord (w : Word) : Bool :=
  reservedBitsClear w && opcodeAssigned w && tailFlagLegal w && matFlagLegal w

end Sys2Proof
end

