-- ==== Sys2Proof/Decode.lean ====
section
/-! DEFINITION. The command decoder (R81, R85, R88), total on 32-bit words, the encoder (R81, R82)
and the opcode table as a list of rows (R82, R91). -/

namespace Sys2Proof

/-- Why a word is no command.  The five reasons are R85's conditions taken apart; the hardware
answers all of them alike, with `IllegalCommand` (R85, R196). -/
inductive DecodeError where
  /-- `Z0` (bits 7:4) is not 0. -/
  | reservedZ0
  /-- `Z1` (bits 31:10) is not 0. -/
  | reservedZ1
  /-- `OPC` is 7 to 15. -/
  | unassignedOpcode
  /-- `T` is 1 and `OPC` is not 6. -/
  | tailFlagMisplaced
  /-- `M` is 1 and `OPC` is not 5. -/
  | matFlagMisplaced
  deriving DecidableEq, Repr

/-- Field `OPC`, bits 3:0 (R81). -/
def fieldOpc (w : Word) : BitVec 4 := w.extractLsb' 0 4

/-- Field `Z0`, bits 7:4 (R81). -/
def fieldZ0 (w : Word) : BitVec 4 := w.extractLsb' 4 4

/-- Field `T`, bit 8 (R81). -/
def fieldT (w : Word) : Bool := w.getLsbD 8

/-- Field `M`, bit 9 (R81). -/
def fieldM (w : Word) : Bool := w.getLsbD 9

/-- Field `Z1`, bits 31:10 (R81). -/
def fieldZ1 (w : Word) : BitVec 22 := w.extractLsb' 10 22

/-- A command that takes neither flag (R85 items 3 and 4). -/
def decodePlain (w : Word) (i : Instr) : Except DecodeError Instr :=
  if fieldT w then .error .tailFlagMisplaced
  else if fieldM w then .error .matFlagMisplaced
  else .ok i

/-- Opcode 5 takes the flag `M` (R81, R85 item 3). -/
def decodeMvmul (w : Word) : Except DecodeError Instr :=
  if fieldT w then .error .tailFlagMisplaced
  else .ok (if fieldM w then .mvmulM else .mvmul)

/-- Opcode 6 takes the flag `T` (R81, R85 item 4). -/
def decodeComp (w : Word) : Except DecodeError Instr :=
  if fieldM w then .error .matFlagMisplaced
  else .ok (if fieldT w then .compT else .comp)

/-- The decoder (R88), written from the fields of format `C` (R81): total, and every word that is
not one of the nine of R82 is rejected by name. -/
def decode (w : Word) : Except DecodeError Instr :=
  if fieldZ0 w ≠ 0#4 then .error .reservedZ0
  else if fieldZ1 w ≠ 0#22 then .error .reservedZ1
  else
    match (fieldOpc w).toNat with
    | 0 => decodePlain w .nop
    | 1 => decodePlain w .crc
    | 2 => decodePlain w .zadv
    | 3 => decodePlain w .mbuild
    | 4 => decodePlain w .minv
    | 5 => decodeMvmul w
    | 6 => decodeComp w
    | _ => .error .unassignedOpcode

/-- A word of format `C` from its fields, `Z0` and `Z1` zero: the concatenation
`Z1 M T Z0 OPC`, high bits first (R81). -/
def commandWord (opc : BitVec 4) (t m : Bool) : Word :=
  0#22 ++ BitVec.ofBool m ++ BitVec.ofBool t ++ 0#4 ++ opc

/-- The encoder: the fields of each row of R82. -/
def encode : Instr → Word
  | .nop => commandWord 0 false false
  | .crc => commandWord 1 false false
  | .zadv => commandWord 2 false false
  | .mbuild => commandWord 3 false false
  | .minv => commandWord 4 false false
  | .mvmul => commandWord 5 false false
  | .mvmulM => commandWord 5 false true
  | .comp => commandWord 6 false false
  | .compT => commandWord 6 true false

/-- A row of the opcode table (R91): a word `w` selects it when `w and mask = pattern`. -/
structure OpcodeRow where
  mnemonic : String
  pattern : Word
  mask : Word
  instr : Instr
  deriving DecidableEq, Repr

/-- The opcode table, nine rows in the order of R82 (R91). -/
def opcodeTable : List OpcodeRow :=
  [⟨"nop", 0x00000000#32, 0xFFFFFFFF#32, .nop⟩,
   ⟨"crc", 0x00000001#32, 0xFFFFFFFF#32, .crc⟩,
   ⟨"zadv", 0x00000002#32, 0xFFFFFFFF#32, .zadv⟩,
   ⟨"mbuild", 0x00000003#32, 0xFFFFFFFF#32, .mbuild⟩,
   ⟨"minv", 0x00000004#32, 0xFFFFFFFF#32, .minv⟩,
   ⟨"mvmul", 0x00000005#32, 0xFFFFFFFF#32, .mvmul⟩,
   ⟨"mvmul.m", 0x00000205#32, 0xFFFFFFFF#32, .mvmulM⟩,
   ⟨"comp", 0x00000006#32, 0xFFFFFFFF#32, .comp⟩,
   ⟨"comp.t", 0x00000106#32, 0xFFFFFFFF#32, .compT⟩]

/-- A word selects a row of the table (R91). -/
def OpcodeRow.selects (r : OpcodeRow) (w : Word) : Bool := w &&& r.mask == r.pattern

/-- The command the decoder reads from the opcode-table word `w` of `nbits` bits, the bits above
`nbits` zero.  A command is one 32-bit word and no byte order applies to it: it is the data of a
register write (R68, R80). -/
def decodeTableWord (nbits w : Nat) : Option Instr :=
  let v := w % 2 ^ nbits
  if v < 2 ^ 32 then
    match decode (BitVec.ofNat 32 v) with
    | .ok i => some i
    | .error _ => none
  else none

end Sys2Proof
end

