-- ==== Sys2Proof/Machine/State.lean ====
section
/-! DEFINITION. The state of the block (R20), its configuration, what stands at its host port, the
reasons a step can stop, and the reset state (R33). -/

namespace Sys2Proof.Machine

/-- The five error kinds (R210 to R213).  `STATUS.ERR` holds one of them or `None`; codes 6 to 15
never occur (R25), which is why this is a closed type. -/
inductive ErrorKind where
  /-- Code 1: the patch field does not lie inside the buffer (R210). -/
  | invalidOffset
  /-- Code 2: the matrix is singular over GF(2) (R211). -/
  | unsolvable
  /-- Code 3: the verification CRC is not the target (R212). -/
  | internal
  /-- Code 4: the word written to `CMD` is none of the nine (R213). -/
  | illegalCommand
  /-- Code 5: the buffer does not lie inside buffer memory (R213). -/
  | addrRange
  deriving DecidableEq, Repr

/-- `STATUS`, the only flags register: its three fields (R25).  Every other bit reads as 0 and the
host cannot write it, so nothing else of the word is state.  `err = none` is the code 0, `None`. -/
structure Status where
  done : Bool
  err : Option ErrorKind
  errSeen : Bool
  deriving DecidableEq, Repr

/-- A 32x32 matrix over GF(2) as 32 column words: word `i` is the image of `Basis(i)` (R27, R132). -/
abbrev Mat := Vector Word 32

/-- Buffer memory as a list of cells (R30, R60).  An address that is not listed reads as 0, so the
lists reach every content of memory; the canonical form is `Memory.wf`. -/
abbrev Memory := List Host.Cell

/-- A word of the register window: index `k` stands for the byte offset `4 * k`, 0x000 to 0x7FC, so
that a narrow, misaligned or outlying register access cannot be written down (R68, R190). -/
abbrev WinIndex := Fin 512

/-- The five host actions (R190). -/
inductive HostAction where
  /-- `RegRead(4 * k)`. -/
  | regRead (k : WinIndex)
  /-- `RegWrite(4 * k, v)`. -/
  | regWrite (k : WinIndex) (v : Word)
  /-- `HostMemRead(a)`. -/
  | memRead (a : BitVec 32)
  /-- `HostMemWrite(a, v)`. -/
  | memWrite (a : BitVec 32) (v : Byte)
  /-- `Reset`. -/
  | reset
  deriving DecidableEq, Repr

/-- The response to a host action (R190): none, a 32-bit value or an 8-bit value. -/
inductive Response where
  | none
  | word (v : Word)
  | byte (v : Byte)
  deriving DecidableEq, Repr

/-- The state.  The first group is the tuple of R20, component by component, but for `TABLE`, which
R20 lets a model keep as a function (`tableEntry`).  `cfg` is the configuration, which no step
changes (R20: "`MEM_BYTES` is configuration, not state").  The last two are the model's own: the
block acts only on host actions (R15, R190), and a step that is a function of the state alone finds
the actions still to come, in the host's order (R73), in `pending`, and leaves its response in
`response`. -/
structure State where
  /-- `CMD`: the last command word written (R23). -/
  cmd : Word
  /-- `STATUS`: the outcome of the last command (R25). -/
  status : Status
  /-- `ADDR`: byte address of the buffer (R21). -/
  addr : Word
  /-- `SIZE`: length of the buffer in bytes (R21). -/
  size : Word
  /-- `TARGET`: the target CRC, finalized (R21). -/
  target : Word
  /-- `OFFSET`: the patch offset from `ADDR` (R21). -/
  offset : Word
  /-- `VEC`: a GF(2) vector (R21). -/
  vec : Word
  /-- `COUNT`: a byte count (R21). -/
  count : Word
  /-- `RESULT`: the result of the last command that produces one (R22). -/
  result : Word
  /-- `ACC`: the raw accumulator of the last pass or zero-advance (R22). -/
  acc : Word
  /-- `PATCH`: the last patch word computed (R22). -/
  patch : Word
  /-- `BASECRC`: the last CRC with the patch field read as zero (R22). -/
  baseCrc : Word
  /-- `MAT[0..31]`: the matrix file (R27). -/
  mat : Mat
  /-- `INV[0..31]`: the inverse file (R28). -/
  inv : Mat
  /-- `Mem[0..MEM_BYTES-1]`: buffer memory (R30). -/
  mem : Memory
  /-- Configuration: `MEM_BYTES` (R9). -/
  cfg : Config
  /-- The model's own: the host actions still to come, first first. -/
  pending : List HostAction
  /-- The model's own: the response to the last host action (R190). -/
  response : Response
  deriving DecidableEq, Repr

/-- Why the machine stops with a fault.  The hardware has no stop (R214, R218); this one is the
guard of the engine's own memory primitives. -/
inductive Fault where
  /-- `MemRead` or `MemWrite` by the engine at an address that does not exist, `MEM_BYTES` or above:
  raised by `crc`, `comp`, `comp.t`.  R61, R62: never evaluated, because the range check comes
  first; that no step raises it is a statement (`Obligations.EveryStepCompletes`).  Safe: it claims
  no value where the spec gives none. -/
  | engineAddressOutOfRange
  deriving DecidableEq, Repr

/-- Why the machine gives no meaning. -/
inductive Refusal where
  /-- An instruction not modelled yet: raised by no arm of `exec` in this model.  Safe. -/
  | notModelled (mnemonic : String)
  /-- `HostMemRead` or `HostMemWrite` at an address at or above `MEM_BYTES`: raised by the host's
  memory port, never by an instruction.  R190: not an action of this interface; U2: `refuse`.
  Safe: it errs toward unprovable. -/
  | hostAddressOutOfRange
  deriving DecidableEq, Repr

/-- `STATUS` after reset: 0x00000000 (R33). -/
def Status.reset : Status := ⟨false, none, false⟩

/-- The zero matrix, the reset value of both files (R33). -/
def Mat.zero : Mat := Vector.replicate 32 0#32

/-- The block after power-on with configuration `c` and memory content `m`: every register at its
reset value (R33), memory unspecified and so an argument (R33, R244, U3). -/
def State.powerOn (c : Config) (m : Memory) : State where
  cmd := 0#32
  status := Status.reset
  addr := 0#32
  size := 0#32
  target := 0#32
  offset := 0#32
  vec := 0#32
  count := 0#32
  result := 0#32
  acc := 0#32
  patch := 0#32
  baseCrc := 0#32
  mat := Mat.zero
  inv := Mat.zero
  mem := m
  cfg := c
  pending := []
  response := .none

/-- The machine right after reset (R33), with `MEM_BYTES` = 0x10000, the value the spec's own vectors
use, and nothing listed in memory.  DESIGN CHOICE, unsafe (notes/assumptions/1, 2): the spec leaves
both open; statements are made of every `cfg` and every `mem`. -/
def State.reset : State := State.powerOn ⟨0x0000FFFF#32⟩ []

end Sys2Proof.Machine
end

