-- ==== Sys2Proof/Machine/Flags.lean ====
section
/-! DEFINITION. Every computation on `STATUS`, the only flags register (R25, R191, R214). -/

namespace Sys2Proof.Machine

/-- The code of an error kind in `STATUS.ERR` (R25, R210 to R213). -/
def ErrorKind.code : ErrorKind → BitVec 4
  | .invalidOffset => 1#4
  | .unsolvable => 2#4
  | .internal => 3#4
  | .illegalCommand => 4#4
  | .addrRange => 5#4

/-- The field `ERR`, code 0 for `None` (R25). -/
def errField : Option ErrorKind → BitVec 4
  | none => 0#4
  | some e => e.code

/-- The word a read of `STATUS` returns: `zext_32({ERRSEEN, ERR[3:0], 0b000, DONE})` (R191). -/
def Status.toWord (st : Status) : Word :=
  0#23 ++ BitVec.ofBool st.errSeen ++ errField st.err ++ 0#3 ++ BitVec.ofBool st.done

/-- The status of a command that ends without `raise`: `ERR` is `None`, `DONE` is 1, `ERRSEEN` stays
(R214). -/
def Status.succeed (st : Status) : Status := ⟨true, none, st.errSeen⟩

/-- The status after `raise e`, whatever it was: `ERR`, `DONE` and the sticky `ERRSEEN` are written
(R25, R214). -/
def Status.failWith (_ : Status) (e : ErrorKind) : Status := ⟨true, some e, true⟩

end Sys2Proof.Machine
end

