-- ==== Sys2Proof/Machine/Ops.lean ====
section
/-! DEFINITION. The shared operations: buffer memory (R60 to R66), the end of a command (R214), the
register updates the commands use, and reset (R240). -/

namespace Sys2Proof.Machine

/-! ### Byte order -/

/-- `LE4(w)`: the four bytes of a word, least significant first (R131, R66). -/
def le4 (w : Word) : List Byte :=
  [w.extractLsb' 0 8, w.extractLsb' 8 8, w.extractLsb' 16 8, w.extractLsb' 24 8]

/-! ### Memory as data -/

/-- What an unlisted address reads as.  The lists of cells over this one value reach every content of
memory, so it is a choice of representation; that reset lists nothing is the choice of content
(DESIGN CHOICE, notes/assumptions/1). -/
def Memory.unlisted : Byte := 0#8

/-- The byte at an address: the first cell listed there, else `Memory.unlisted` (R60). -/
def Memory.read : Memory → Nat → Byte
  | [], _ => Memory.unlisted
  | c :: m, a => if c.1 = a then c.2 else Memory.read m a

/-- Drop every cell at an address. -/
def Memory.erase : Memory → Nat → Memory
  | [], _ => []
  | c :: m, a => if c.1 = a then Memory.erase m a else c :: Memory.erase m a

/-- Put a cell before the first cell of a higher address. -/
def Memory.insert : Memory → Nat → Byte → Memory
  | [], a, v => [(a, v)]
  | c :: m, a, v => if a < c.1 then (a, v) :: c :: m else c :: Memory.insert m a v

/-- Set the byte at an address, keeping the canonical form (R63). -/
def Memory.write (m : Memory) (a : Nat) (v : Byte) : Memory :=
  if v = Memory.unlisted then m.erase a else (m.erase a).insert a v

/-- Addresses strictly rising from `lo` on, none listed with the value an unlisted one reads as. -/
def Memory.wfFrom : Memory → Nat → Bool
  | [], _ => true
  | c :: m, lo => decide (lo ≤ c.1) && decide (c.2 ≠ Memory.unlisted) && Memory.wfFrom m (c.1 + 1)

/-- The canonical form of memory: equal contents are equal lists. -/
def Memory.wf (m : Memory) : Bool := m.wfFrom 0

/-- Every listed address exists: it is below `MEM_BYTES` (R60). -/
def Memory.within (m : Memory) (c : Config) : Bool := m.all fun cell => decide (cell.1 < c.memBytes)

/-! ### The access primitives -/

/-- Replace the contents of memory, changing nothing else. -/
def State.putMem (s : State) (m : Memory) : State := { s with mem := m }

/-- `MemRead(a, 1)` for `a < MEM_BYTES` (R62), also the host's `HostMemRead` (R78); `none` at an
address that does not exist (R60). -/
def State.memRead (s : State) (a : Nat) : Option Byte :=
  if a < s.cfg.memBytes then some (s.mem.read a) else none

/-- `MemWrite(a, 1, v)` for `a < MEM_BYTES` (R63), also the host's `HostMemWrite` (R78); `none` at an
address that does not exist (R60). -/
def State.memWrite (s : State) (a : Nat) (v : Byte) : Option State :=
  if a < s.cfg.memBytes then some (s.putMem (s.mem.write a v)) else none

/-- Byte writes to rising addresses from `a` on. -/
def State.memWriteBytes (s : State) (a : Nat) : List Byte → Option State
  | [] => some s
  | b :: bs =>
    match s.memWrite a b with
    | none => none
    | some s' => s'.memWriteBytes (a + 1) bs

/-- `MemWrite(a, 4, v)`: four byte writes, the least significant byte at the lowest address (R64). -/
def State.memWrite4 (s : State) (a : Nat) (v : Word) : Option State := s.memWriteBytes a (le4 v)

/-! ### The end of a command -/

/-- `raise e` (R214), the block's only "exception": `STATUS` records the error and the command ends.
What was written before stays written, and nothing else is saved or changed (R218). -/
def State.raise (s : State) (e : ErrorKind) : State := { s with status := s.status.failWith e }

/-- The end of a command without `raise` (R214). -/
def State.complete (s : State) : State := { s with status := s.status.succeed }

/-! ### Register updates -/

/-- `x[CMD] <- w` (R194). -/
def State.putCmd (s : State) (w : Word) : State := { s with cmd := w }

/-- `x[ACC] <- a` and `x[RESULT] <- r`. -/
def State.putAccResult (s : State) (a r : Word) : State := { s with acc := a, result := r }

/-- `x[RESULT] <- r`. -/
def State.putResult (s : State) (r : Word) : State := { s with result := r }

/-- `x[ACC] <- a` and `x[BASECRC] <- b`. -/
def State.putAccBase (s : State) (a b : Word) : State := { s with acc := a, baseCrc := b }

/-- `x[PATCH] <- p`. -/
def State.putPatch (s : State) (p : Word) : State := { s with patch := p }

/-- All 32 words of `MAT`. -/
def State.putMat (s : State) (m : Mat) : State := { s with mat := m }

/-- All 32 words of `INV`. -/
def State.putInv (s : State) (m : Mat) : State := { s with inv := m }

/-- The response to the host's action (R190). -/
def State.respond (s : State) (r : Response) : State := { s with response := r }

/-- Take the first pending action off the queue: `rest` is what remains, and no response has been
given yet. -/
def State.takeAction (s : State) (rest : List HostAction) : State :=
  { s with pending := rest, response := .none }

/-- `Reset` (R240): every register of the window to its reset value (R33); buffer memory, the
configuration and what the host has still to do are not touched. -/
def State.resetRegisters (s : State) : State :=
  { State.powerOn s.cfg s.mem with pending := s.pending, response := s.response }

end Sys2Proof.Machine
end

