-- ==== Sys2Proof/Machine/Operands.lean ====
section
/-! DEFINITION. Where operands come from: the register map (R26), the effective patch offset (R84)
and the checks on it (R61, R161).  Every sum is of unbounded integers: nothing wraps (R11, D7). -/

namespace Sys2Proof.Machine

/-! ### The register map -/

/-- What stands at an offset of the register window (R26). -/
inductive Reg where
  | cmd
  | status
  | addr
  | size
  | target
  | offset
  | vec
  | count
  | result
  | acc
  | patch
  | baseCrc
  | mat (i : Fin 32)
  | inv (i : Fin 32)
  | table (n : Byte)
  | reserved
  deriving DecidableEq, Repr

/-- The register map (R26): the word index `k` is the byte offset `4 * k`.  `MAT` is at 0x080 (word
32), `INV` at 0x100 (word 64), `TABLE` at 0x400 (word 256). -/
def regAt (k : WinIndex) : Reg :=
  match k.val with
  | 0 => .cmd
  | 1 => .status
  | 2 => .addr
  | 3 => .size
  | 4 => .target
  | 5 => .offset
  | 6 => .vec
  | 7 => .count
  | 8 => .result
  | 9 => .acc
  | 10 => .patch
  | 11 => .baseCrc
  | n =>
    if 32 ≤ n ∧ n < 64 then .mat (Fin.ofNat 32 (n - 32))
    else if 64 ≤ n ∧ n < 96 then .inv (Fin.ofNat 32 (n - 64))
    else if 256 ≤ n then .table (BitVec.ofNat 8 (n - 256))
    else .reserved

/-- The word index of `CMD` (offset 0x000, R26). -/
def cmdIndex : WinIndex := 0

/-! ### Operands of the buffer commands -/

/-- R61: the whole buffer lies in memory, `x[ADDR] + x[SIZE] <= MEM_BYTES`. -/
def State.bufferInRange (s : State) : Bool := decide (s.addr.toNat + s.size.toNat ≤ s.cfg.memBytes)

/-- R161: the patch field lies in the buffer, `off + 4 <= x[SIZE]`. -/
def State.patchInBuffer (s : State) (off : Nat) : Bool := decide (off + 4 ≤ s.size.toNat)

/-- R84 with `T` = 0: `off = x[OFFSET]`. -/
def State.offsetOperand (s : State) : Nat := s.offset.toNat

/-- R84 with `T` = 1: `off = x[SIZE] - 4`, and `none` (raise `InvalidOffset`) when `x[SIZE] < 4`. -/
def State.tailOffset (s : State) : Option Nat :=
  if s.size.toNat < 4 then none else some (s.size.toNat - 4)

/-- The trailing length `t = x[SIZE] - off - 4` (R84). -/
def State.trailing (s : State) (off : Nat) : Nat := s.size.toNat - off - 4

/-- The byte at offset `k` of the buffer, address `x[ADDR] + k` (R198). -/
def State.readAt (s : State) (k : Nat) : Option Byte := s.memRead (s.addr.toNat + k)

/-- The same with the patch field at `off` read as zero: those four bytes are not read (R69, R162). -/
def State.readZeroing (s : State) (off k : Nat) : Option Byte :=
  if off ≤ k ∧ k < off + 4 then some 0#8 else s.readAt k

end Sys2Proof.Machine
end

