-- ==== Sys2Proof/Machine/CrcEngine.lean ====
section
/-! DEFINITION. The CRC-32 engine: its pure functions (R100 to R105) and the commands `crc` (R110)
and `zadv` (R112). -/

namespace Sys2Proof.Machine

/-- `POLY`, the reflected polynomial (R8). -/
def poly : Word := 0xEDB88320#32

/-- `INIT`, the accumulator a CRC pass starts from (R8). -/
def crcInit : Word := 0xFFFFFFFF#32

/-- `XOROUT`, XORed into the accumulator to give the CRC (R8). -/
def crcXorOut : Word := 0xFFFFFFFF#32

/-- One iteration of the loop of R100: the low bit is tested before the shift, `POLY` is XORed in
after it. -/
def shiftRound (v : Word) : Word :=
  if v.getLsbD 0 then (v >>> 1) ^^^ poly else v >>> 1

/-- `n` iterations of `shiftRound`. -/
def shiftRounds : Nat → Word → Word
  | 0, v => v
  | n + 1, v => shiftRounds n (shiftRound v)

/-- `TableEntry(n)`, and so `TABLE[n]` (R29, R100): eight iterations on `zext_32(n)`. -/
def tableEntry (n : Byte) : Word := shiftRounds 8 (n.setWidth 32)

/-- `Upd(acc, b)`, one byte update round (R102). -/
def upd (acc : Word) (b : Byte) : Word :=
  tableEntry (((acc ^^^ b.setWidth 32) &&& 0xFF#32).setWidth 8) ^^^ (acc >>> 8)

/-- `Raw(acc, bytes)` (R103): the bytes fed in order, no final XOR. -/
def raw (acc : Word) : List Byte → Word
  | [] => acc
  | b :: bs => (upd acc b).strict fun acc' => raw acc' bs

/-- `Crc32(bytes)` (R104). -/
def crc32 (bytes : List Byte) : Word := raw crcInit bytes ^^^ crcXorOut

/-- `ZAdv(acc, n)` (R105): `n` rounds with the byte 0. -/
def zAdv (acc : Word) : Nat → Word
  | 0 => acc
  | n + 1 => (upd acc 0#8).strict fun acc' => zAdv acc' n

/-- A CRC pass: feed the bytes at offsets `k`, ..., `k + n - 1`, in ascending order (R65), as `rd`
reads them.  `none` when a read is of an address that does not exist. -/
def crcPass (rd : Nat → Option Byte) (k : Nat) : Nat → Word → Option Word
  | 0, acc => some acc
  | n + 1, acc =>
    match rd k with
    | none => none
    | some b => (upd acc b).strict fun acc' => crcPass rd (k + 1) n acc'

/-- `crc`: CRC-32 of the buffer (R110). -/
def execCrc (s : State) : Host.Outcome State Fault Refusal :=
  if s.bufferInRange then
    match crcPass s.readAt 0 s.size.toNat crcInit with
    | none => .fault .engineAddressOutOfRange
    | some acc => .next (s.putAccResult acc (acc ^^^ crcXorOut)).complete
  else .next (s.raise .addrRange)

/-- `zadv`: zero-advance of an accumulator, no final XOR (R112). -/
def execZadv (s : State) : Host.Outcome State Fault Refusal :=
  let acc := zAdv s.vec s.count.toNat
  .next (s.putAccResult acc acc).complete

end Sys2Proof.Machine
end

