-- ==== Sys2Proof/Machine/MatrixEngine.lean ====
section
/-! DEFINITION. The GF(2) matrix engine: its pure functions (R130 to R136) and the commands `mbuild`
(R140), `minv` (R142), `mvmul` (R144) and `mvmul.m` (R145). -/

namespace Sys2Proof.Machine

/-- `Basis(i)`: the word with only bit `i` set (R130). -/
def basis (i : Fin 32) : Word := 1#32 <<< i.val

/-- The matrix whose word `i` is `f i`. -/
def Mat.ofFn (f : Fin 32 → Word) : Mat := ⟨⟨(List.finRange 32).map f⟩, by simp⟩

/-- `MBuild(t)`: column `i` is `ZAdv(Raw(0, LE4(Basis(i))), t)`, with no final XOR (R132). -/
def mBuild (t : Nat) : Mat := Mat.ofFn fun i => zAdv (raw 0#32 (le4 (basis i))) t

/-- The pivot row of column `c`: the least `r` with `c <= r <= 31` and `W[r][c] = 1` (R134). -/
def pivotRow (w : Mat) (c : Fin 32) : Option (Fin 32) :=
  (List.finRange 32).find? fun r => decide (c ≤ r) && (w.get r).getLsbD c.val

/-- Swap two words of a matrix; nothing happens when they are one (R134). -/
def swapRows (m : Mat) (i j : Fin 32) : Mat :=
  Mat.ofFn fun r => if r = i then m.get j else if r = j then m.get i else m.get r

/-- The rows that the elimination of column `c` XORs with row `c`: every other row with the bit set
(R134). -/
def hasBit (w : Mat) (c r : Fin 32) : Bool := decide (r ≠ c) && (w.get r).getLsbD c.val

/-- XOR row `c` of `m` into each row that `hit` marks.  Row `c` itself is never marked and so does
not change on the way: the order of the rows is immaterial (R134). -/
def addRow (hit : Fin 32 → Bool) (m : Mat) (c : Fin 32) : Mat :=
  Mat.ofFn fun r => if hit r then m.get r ^^^ m.get c else m.get r

/-- One column of the elimination, on the working arrays `W` and `B` (R134): `none` when the column
has no pivot. -/
def elimColumn (c : Fin 32) (w b : Mat) : Option (Mat × Mat) :=
  match pivotRow w c with
  | none => none
  | some p =>
    let w' := swapRows w c p
    let b' := swapRows b c p
    some (addRow (hasBit w' c) w' c, addRow (hasBit w' c) b' c)

/-- The elimination of a list of columns, in order; `none` at the first without a pivot (R134). -/
def elimColumns : List (Fin 32) → Mat → Mat → Option (Mat × Mat)
  | [], w, b => some (w, b)
  | c :: cs, w, b =>
    match elimColumn c w b with
    | none => none
    | some wb => elimColumns cs wb.1 wb.2

/-- `GF2Invert(A)`: Gauss-Jordan elimination of the columns 0 to 31, `B` starting as the identity;
`none` is `ok = false` (R134). -/
def gf2Invert (a : Mat) : Option Mat :=
  (elimColumns (List.finRange 32) a (Mat.ofFn basis)).map Prod.snd

/-- `MulVec(X, v)`: the XOR of the words `X[i]` with `v[i] = 1` (R136). -/
def mulVec (x : Mat) (v : Word) : Word :=
  (List.finRange 32).foldl (fun r i => if v.getLsbD i.val then r ^^^ x.get i else r) 0#32

/-- `mbuild`: build `M_trailing` for the trailing length in `COUNT` (R140). -/
def execMbuild (s : State) : Host.Outcome State Fault Refusal :=
  .next (s.putMat (mBuild s.count.toNat)).complete

/-- `minv`: invert the matrix in `MAT`; `INV` is written only when the inverse is complete (R142). -/
def execMinv (s : State) : Host.Outcome State Fault Refusal :=
  match gf2Invert s.mat with
  | none => .next (s.raise .unsolvable)
  | some b => .next (s.putInv b).complete

/-- `mvmul`: multiply `VEC` by the inverse file (R144). -/
def execMvmul (s : State) : Host.Outcome State Fault Refusal :=
  .next (s.putResult (mulVec s.inv s.vec)).complete

/-- `mvmul.m`: multiply `VEC` by the matrix file (R145). -/
def execMvmulM (s : State) : Host.Outcome State Fault Refusal :=
  .next (s.putResult (mulVec s.mat s.vec)).complete

end Sys2Proof.Machine
end

