-- ==== Sys2Proof/Machine/Compensator.lean ====
section
/-! DEFINITION. The patch synthesizer: the commands `comp` (R163) and `comp.t` (R164).  The step
numbers are the ones R163 carries. -/

namespace Sys2Proof.Machine

/-- Step 8: the mandatory verification pass, which reads the buffer again from memory, and the two
ways the command can then end (R163). -/
def verifyPatch (s : State) : Host.Outcome State Fault Refusal :=
  match crcPass s.readAt 0 s.size.toNat crcInit with
  | none => .fault .engineAddressOutOfRange
  | some acc =>
    let s' := s.putAccResult acc (acc ^^^ crcXorOut)
    if s'.result = s'.target then .next s'.complete else .next (s'.raise .internal)

/-- Steps 4, 6 and 7: the patch word from the inverse and `x[TARGET] xor x[BASECRC]`, and its four
bytes into the patch field (R163). -/
def writePatch (off : Nat) (s : State) : Host.Outcome State Fault Refusal :=
  let s1 := s.putPatch (mulVec s.inv (s.target ^^^ s.baseCrc))
  match s1.memWrite4 (s1.addr.toNat + off) s1.patch with
  | none => .fault .engineAddressOutOfRange
  | some s2 => verifyPatch s2

/-- Step 5: invert `MAT` into `INV`, committed only when complete (R163). -/
def solveMatrix (off : Nat) (s : State) : Host.Outcome State Fault Refusal :=
  match gf2Invert s.mat with
  | none => .next (s.raise .unsolvable)
  | some b => writePatch off (s.putInv b)

/-- Steps 1 to 3: the base pass with the patch field read as zero (`BaseRaw`, R162), and the matrix
of the trailing length (R163). -/
def basePass (off : Nat) (s : State) : Host.Outcome State Fault Refusal :=
  match crcPass (s.readZeroing off) 0 s.size.toNat crcInit with
  | none => .fault .engineAddressOutOfRange
  | some acc =>
    solveMatrix off ((s.putAccBase acc (acc ^^^ crcXorOut)).putMat (mBuild (s.trailing off)))

/-- The command at the effective offset `off`: the checks, in this order (R161, R61, R216), and the
steps (R163). -/
def compensateAt (off : Nat) (s : State) : Host.Outcome State Fault Refusal :=
  if s.patchInBuffer off then
    if s.bufferInRange then basePass off s else .next (s.raise .addrRange)
  else .next (s.raise .invalidOffset)

/-- `comp`: compensate at the offset in `OFFSET` (R163). -/
def execComp (s : State) : Host.Outcome State Fault Refusal := compensateAt s.offsetOperand s

/-- `comp.t`: compensate in the last 4 bytes of the buffer; `OFFSET` is ignored (R164). -/
def execCompT (s : State) : Host.Outcome State Fault Refusal :=
  match s.tailOffset with
  | none => .next (s.raise .invalidOffset)
  | some off => compensateAt off s

end Sys2Proof.Machine
end

