-- ==== Sys2Proof/Machine/System.lean ====
section
/-! DEFINITION. `nop` (R195) and the illegal command word (R196). -/

namespace Sys2Proof.Machine

/-- `nop`: `STATUS.DONE <- 1 ; STATUS.ERR <- None`, nothing else (R195). -/
def execNop (s : State) : Host.Outcome State Fault Refusal := .next s.complete

/-- The illegal command word: `raise IllegalCommand`, nothing else; it is defined behaviour with a
next state (R196, R221, U6). -/
def execIllegal (s : State) : Host.Outcome State Fault Refusal := .next (s.raise .illegalCommand)

end Sys2Proof.Machine
end

