-- ==== Sys2Proof/Machine/Dispatch.lean ====
section
/-! DEFINITION. One arm per command (R194). -/

namespace Sys2Proof.Machine

/-- The execution of a command, `CMD` already stored (R194). -/
def exec (i : Instr) (s : State) : Host.Outcome State Fault Refusal :=
  match i with
  | .nop => Sys2Proof.Machine.execNop s
  | .crc => Sys2Proof.Machine.execCrc s
  | .zadv => Sys2Proof.Machine.execZadv s
  | .mbuild => Sys2Proof.Machine.execMbuild s
  | .minv => Sys2Proof.Machine.execMinv s
  | .mvmul => Sys2Proof.Machine.execMvmul s
  | .mvmulM => Sys2Proof.Machine.execMvmulM s
  | .comp => Sys2Proof.Machine.execComp s
  | .compT => Sys2Proof.Machine.execCompT s

end Sys2Proof.Machine
end

