-- ==== Sys2Proof/Machine/HostPort.lean ====
section
/-! DEFINITION. The host's five actions (R190): register reads (R191), register writes (R192, R193),
the command trigger (R194), the memory port (R78) and reset (R240). -/

namespace Sys2Proof.Machine

/-- The value a register read returns (R191).  A read changes no register. -/
def regValue (r : Reg) (s : State) : Word :=
  match r with
  | .cmd => s.cmd
  | .status => s.status.toWord
  | .addr => s.addr
  | .size => s.size
  | .target => s.target
  | .offset => s.offset
  | .vec => s.vec
  | .count => s.count
  | .result => s.result
  | .acc => s.acc
  | .patch => s.patch
  | .baseCrc => s.baseCrc
  | .mat i => s.mat.get i
  | .inv i => s.inv.get i
  | .table n => tableEntry n
  | .reserved => 0#32

/-- The command trigger (R194): store the word in `CMD`, decode it, run the command; a word that is no
command ends with `IllegalCommand` (R196).  All of it is one step (R15). -/
def runCommand (w : Word) (s : State) : Host.Outcome State Fault Refusal :=
  match decode w with
  | .ok i => exec i (s.putCmd w)
  | .error _ => execIllegal (s.putCmd w)

/-- A register write: the six operand registers and `MAT` take the value (R192), `CMD` runs a command
(R194), and every read-only or reserved offset ignores it silently (R193). -/
def regStore (r : Reg) (v : Word) (s : State) : Host.Outcome State Fault Refusal :=
  match r with
  | .cmd => runCommand v s
  | .addr => .next { s with addr := v }
  | .size => .next { s with size := v }
  | .target => .next { s with target := v }
  | .offset => .next { s with offset := v }
  | .vec => .next { s with vec := v }
  | .count => .next { s with count := v }
  | .mat i => .next { s with mat := s.mat.set i.val v }
  | .status => .next s
  | .result => .next s
  | .acc => .next s
  | .patch => .next s
  | .baseCrc => .next s
  | .inv _ => .next s
  | .table _ => .next s
  | .reserved => .next s

/-- `HostMemRead(a)` returns `Mem[a]` (R78); at or above `MEM_BYTES` it is no action (R190, U2). -/
def hostRead (a : BitVec 32) (s : State) : Host.Outcome State Fault Refusal :=
  match s.memRead a.toNat with
  | none => .refused .hostAddressOutOfRange
  | some b => .next (s.respond (.byte b))

/-- `HostMemWrite(a, v)` sets `Mem[a]` (R78); at or above `MEM_BYTES` it is no action (R190, U2). -/
def hostWrite (a : BitVec 32) (v : Byte) (s : State) : Host.Outcome State Fault Refusal :=
  match s.memWrite a.toNat v with
  | none => .refused .hostAddressOutOfRange
  | some s' => .next s'

/-- `Step` of R190: one host action, its response left in `response`. -/
def hostAct (a : HostAction) (s : State) : Host.Outcome State Fault Refusal :=
  match a with
  | .regRead k => .next (s.respond (.word (regValue (regAt k) s)))
  | .regWrite k v => regStore (regAt k) v s
  | .memRead a => hostRead a s
  | .memWrite a v => hostWrite a v s
  | .reset => .next s.resetRegisters

/-- The next host action, if one is pending.  Between host actions nothing changes: every state is
quiescent (R190). -/
def nextAction (s : State) : Host.Outcome State Fault Refusal :=
  match s.pending with
  | [] => .next s
  | a :: rest => hostAct a (s.takeAction rest)

/-- The host writes the word `w` to `CMD` next, before what it has still to do. -/
def State.submitCommand (s : State) (w : Word) : State :=
  { s with pending := .regWrite cmdIndex w :: s.pending }

end Sys2Proof.Machine
end

