-- ==== Sys2Proof/Machine/Step.lean ====
section
/-! DEFINITION. The step, and where it finds its next command (R190, R194). -/

namespace Sys2Proof.Machine

/-- One step: the next host action (R15, R190).  The block has no program counter and fetches nothing
(R24, R76). -/
def step (s : State) : Host.Outcome State Fault Refusal := nextAction s

/-- `s` with the host about to write the opcode-table word `w` of `nbits` bits to `CMD`: the block's
commands come as the data of a register write and from nowhere else (R76, R80). -/
def State.withFetchWord (s : State) (nbits w : Nat) : State :=
  s.submitCommand (BitVec.ofNat 32 (w % 2 ^ nbits))

end Sys2Proof.Machine
end

