-- ==== Sys2Proof/Machine/Script.lean ====
section
/-! DEFINITION. The host-script notation as lists of host actions (R89) and the pseudo-instructions
(R90).  A script is no state of the block: it is what a host puts in `pending`. -/

namespace Sys2Proof.Machine

/-- The word index of a register (R26); a reserved offset has the first one, 0x030. -/
def regIndex : Reg → WinIndex
  | .cmd => 0
  | .status => 1
  | .addr => 2
  | .size => 3
  | .target => 4
  | .offset => 5
  | .vec => 6
  | .count => 7
  | .result => 8
  | .acc => 9
  | .patch => 10
  | .baseCrc => 11
  | .mat i => Fin.ofNat 512 (32 + i.val)
  | .inv i => Fin.ofNat 512 (64 + i.val)
  | .table n => Fin.ofNat 512 (256 + n.toNat)
  | .reserved => 12

/-- `wr REG, value` (R89). -/
def scriptWr (r : Reg) (v : Word) : List HostAction := [.regWrite (regIndex r) v]

/-- `rd REG` (R89). -/
def scriptRd (r : Reg) : List HostAction := [.regRead (regIndex r)]

/-- `mwr addr, b0 b1 ...` (R89): byte writes to `addr`, `addr + 1`, ...  An address past 2^32 - 1 wraps
(notes/assumptions/15). -/
def scriptMwr (a : BitVec 32) : List Byte → List HostAction
  | [] => []
  | b :: bs => .memWrite a b :: scriptMwr (a + 1) bs

/-- `mrd addr, n` (R89): `n` byte reads from `addr` upward. -/
def scriptMrd (a : BitVec 32) : Nat → List HostAction
  | 0 => []
  | n + 1 => .memRead a :: scriptMrd (a + 1) n

/-- A command mnemonic as a statement: `wr CMD, <its word>` (R89). -/
def scriptCmd (i : Instr) : List HostAction := scriptWr .cmd (encode i)

/-- `reset` (R89). -/
def scriptReset : List HostAction := [.reset]

/-- `crc32 addr, size` (R90). -/
def scriptCrc32 (a n : Word) : List HostAction :=
  scriptWr .addr a ++ scriptWr .size n ++ scriptCmd .crc ++ scriptRd .status ++ scriptRd .result

/-- `compensate addr, size, target` (R90). -/
def scriptCompensate (a n t : Word) : List HostAction :=
  scriptWr .addr a ++ scriptWr .size n ++ scriptWr .target t ++ scriptCmd .compT ++ scriptRd .status

/-- `compensate_at addr, size, offset, target` (R90). -/
def scriptCompensateAt (a n off t : Word) : List HostAction :=
  scriptWr .addr a ++ scriptWr .size n ++ scriptWr .offset off ++ scriptWr .target t ++
    scriptCmd .comp ++ scriptRd .status

/-- `ldmat w0, ..., w31` (R90). -/
def scriptLdmat (m : Mat) : List HostAction :=
  (List.finRange 32).flatMap fun i => scriptWr (.mat i) (m.get i)

/-- `ldident` (R90). -/
def scriptLdident : List HostAction := scriptLdmat (Mat.ofFn basis)

/-- The host goes on with a script after what it has still to do. -/
def State.append (s : State) (script : List HostAction) : State :=
  { s with pending := s.pending ++ script }

end Sys2Proof.Machine
end

