-- ==== Sys2Proof/Safety.lean ====
section
/-! DEFINITION. The terms the statements use: the buffer as a sequence of bytes, what a good state
is, what an error-free state is, when an action is in the interface's domain, and what the matrices
stand for. -/

namespace Sys2Proof.Machine

/-! ### The buffer -/

/-- The bytes of the buffer, offsets 0 to `SIZE - 1` (R30, R65). -/
def State.bufferBytes (s : State) : List Byte :=
  (List.range s.size.toNat).map fun k => s.mem.read (s.addr.toNat + k)

/-- The bytes of the buffer with the patch field at `off` read as zero (R162). -/
def State.baseBytes (s : State) (off : Nat) : List Byte :=
  (List.range s.size.toNat).map fun k =>
    if off ≤ k ∧ k < off + 4 then 0#8 else s.mem.read (s.addr.toNat + k)

/-- Byte `k` of a word in little-endian order, `w[8k+7:8k]` (R64). -/
def byteOf (w : Word) (k : Nat) : Byte := w.extractLsb' (8 * k) 8

/-- The bytes of the buffer with `LE4(p)` in the patch field at `off`: `x_p` of R166. -/
def State.patchedBytes (s : State) (off : Nat) (p : Word) : List Byte :=
  (List.range s.size.toNat).map fun k =>
    if off ≤ k ∧ k < off + 4 then byteOf p (k - off) else s.mem.read (s.addr.toNat + k)

/-- The effective patch offset of the two commands that have one, as their meanings take it (R84):
`SIZE - 4` for `comp.t` and `OFFSET` for `comp`. -/
def State.patchOffset (s : State) : Instr → Nat
  | .compT => s.tailOffset.getD 0
  | _ => s.offsetOperand

/-- An address outside the four bytes of the patch field (R64, R70). -/
def State.outsidePatch (s : State) (i : Instr) (a : Nat) : Prop :=
  a < s.addr.toNat + s.patchOffset i ∨ s.addr.toNat + s.patchOffset i + 4 ≤ a

/-! ### Good states -/

/-- Memory is in canonical form and lists no address that does not exist (R60). -/
def State.memWf (s : State) : Bool := s.mem.wf && s.mem.within s.cfg

/-- `STATUS` is one a run can show: an error code implies `ERRSEEN`, and `ERRSEEN` implies `DONE`
(R25, R214). -/
def Status.coherent (st : Status) : Bool := (!st.err.isSome || st.errSeen) && (!st.errSeen || st.done)

/-- While `DONE` is 0, no command has run since reset: `CMD` and the result registers hold 0 (R23,
R25, R34). -/
def State.freshIfNotDone (s : State) : Bool :=
  s.status.done ||
    (s.cmd == 0#32 && s.result == 0#32 && s.acc == 0#32 && s.patch == 0#32 && s.baseCrc == 0#32 &&
      decide (s.inv = Mat.zero))

/-- The invariant of the block. -/
abbrev State.Inv (s : State) : Prop :=
  s.memWf = true ∧ s.status.coherent = true ∧ s.freshIfNotDone = true

/-- R221: the run had no error, `ERRSEEN` = 0. -/
def State.errorFree (s : State) : Bool := !s.status.errSeen

/-- The next host action, if any, is one of the interface: a memory address is below `MEM_BYTES`
(R190). -/
def State.nextInDomain (s : State) : Bool :=
  match s.pending with
  | .memRead a :: _ => decide (a.toNat < s.cfg.memBytes)
  | .memWrite a _ :: _ => decide (a.toNat < s.cfg.memBytes)
  | _ => true

/-! ### Matrices -/

/-- The words of `x` are linearly independent over GF(2): no non-empty subset of them XORs to 0
(R135 item 3). -/
def Mat.Nonsingular (x : Mat) : Prop := ∀ v : Word, mulVec x v = 0#32 → v = 0#32

/-- `b` is the inverse of `a`, on both sides (R135 item 2). -/
def Mat.InverseOf (b a : Mat) : Prop :=
  ∀ v : Word, mulVec a (mulVec b v) = v ∧ mulVec b (mulVec a v) = v

/-- The success row of R165 with every value the pseudocode of R163 gives: the outcome `o` of a
compensation of `s` at the effective offset `off`.  `b` is the inverse file, `p` the patch word, `m`
buffer memory afterwards; everything not named is as in `s`. -/
def Compensated (off : Nat) (s : State) (o : Host.Outcome State Fault Refusal) : Prop :=
  ∃ (b : Mat) (p : Word) (m : Memory),
    o = .next { s with
          acc := s.target ^^^ 0xFFFFFFFF#32
          result := s.target
          patch := p
          baseCrc := crc32 (s.baseBytes off)
          mat := mBuild (s.size.toNat - off - 4)
          inv := b
          mem := m
          status := ⟨true, none, s.status.errSeen⟩ } ∧
      gf2Invert (mBuild (s.size.toNat - off - 4)) = some b ∧
      Mat.InverseOf b (mBuild (s.size.toNat - off - 4)) ∧
      p = mulVec b (s.target ^^^ crc32 (s.baseBytes off)) ∧
      (∀ k, k < 4 → m.read (s.addr.toNat + off + k) = byteOf p k) ∧
      (∀ a, a < s.addr.toNat + off ∨ s.addr.toNat + off + 4 ≤ a → m.read a = s.mem.read a)

/-! ### The register window -/

/-- The number of an error code, as `STATUS.ERR` shows it (R25). -/
def errNumber : Option ErrorKind → Nat
  | none => 0
  | some .invalidOffset => 1
  | some .unsolvable => 2
  | some .internal => 3
  | some .illegalCommand => 4
  | some .addrRange => 5

/-- The value a read at byte offset `o` returns, by the table of R191, `STATUS` as
`DONE + 16 * ERR + 256 * ERRSEEN`. -/
def State.windowValue (s : State) (o : Nat) : Word :=
  if o = 0x000 then s.cmd
  else if o = 0x004 then
    BitVec.ofNat 32
      (s.status.done.toNat + 16 * errNumber s.status.err + 256 * s.status.errSeen.toNat)
  else if o = 0x008 then s.addr
  else if o = 0x00C then s.size
  else if o = 0x010 then s.target
  else if o = 0x014 then s.offset
  else if o = 0x018 then s.vec
  else if o = 0x01C then s.count
  else if o = 0x020 then s.result
  else if o = 0x024 then s.acc
  else if o = 0x028 then s.patch
  else if o = 0x02C then s.baseCrc
  else if 0x080 ≤ o ∧ o ≤ 0x0FC then s.mat.toList.getD ((o - 0x080) / 4) 0#32
  else if 0x100 ≤ o ∧ o ≤ 0x17C then s.inv.toList.getD ((o - 0x100) / 4) 0#32
  else if 0x400 ≤ o ∧ o ≤ 0x7FC then tableEntry (BitVec.ofNat 8 ((o - 0x400) / 4))
  else 0#32

/-- A byte offset whose register the host cannot write: `STATUS`, the result registers, `INV`,
`TABLE` and the reserved offsets (R26, R193). -/
def readOnlyOffset (o : Nat) : Bool :=
  o == 0x004 || (decide (0x020 ≤ o) && decide (o ≤ 0x07C)) || decide (0x100 ≤ o)

/-! ### Errors -/

/-- Which command can end with which value of `STATUS.ERR` (R215), `Unsolvable` and `Internal` of
`comp` and `comp.t` left out, which R215 calls "in form only" (R167, R168). -/
def mayEndWith : Instr → Option ErrorKind → Bool
  | _, none => true
  | .crc, some .addrRange => true
  | .minv, some .unsolvable => true
  | .comp, some .invalidOffset => true
  | .comp, some .addrRange => true
  | .compT, some .invalidOffset => true
  | .compT, some .addrRange => true
  | _, some _ => false

end Sys2Proof.Machine
end

