-- ==== Sys2Proof/Certificates/Slice0/Obligations.lean ====
section
/-! DEFINITION. The statements for the provers, from the numbered rules of the spec. -/

open Sys2Proof Sys2Proof.Machine

/-! ### Encoding -/

/-- R88: every command decodes from its own word and from no other, over all 2^32 words, so `Decode`
is injective on legal words and `Encode(Decode(w)) = w`; and the nine words. -/
def Obligations.DecodeAndEncodeAgree : Prop :=
  (∀ (w : Word) (i : Instr), decode w = .ok i ↔ w = encode i) ∧
    encode .nop = 0x00000000#32 ∧ encode .crc = 0x00000001#32 ∧ encode .zadv = 0x00000002#32 ∧
    encode .mbuild = 0x00000003#32 ∧ encode .minv = 0x00000004#32 ∧ encode .mvmul = 0x00000005#32 ∧
    encode .mvmulM = 0x00000205#32 ∧ encode .comp = 0x00000006#32 ∧ encode .compT = 0x00000106#32

/-- R85: a word is legal by the four conditions on its fields, which is when the decoder takes it and
when it is one of the nine; any other word is stored in `CMD` and ends with `IllegalCommand`, and no
other state changes. -/
def Obligations.LegalWordsAreExactlyTheDecodable : Prop :=
  ∀ w : Word,
    (legalCommandWord w = true ↔
        (w.extractLsb' 4 4 = 0#4 ∧ w.extractLsb' 10 22 = 0#22) ∧ (w.extractLsb' 0 4).toNat ≤ 6 ∧
          (w.getLsbD 8 = false ∨ w.extractLsb' 0 4 = 6#4) ∧
          (w.getLsbD 9 = false ∨ w.extractLsb' 0 4 = 5#4)) ∧
      (legalCommandWord w = true ↔ ∃ i, decode w = .ok i) ∧
      (legalCommandWord w = true ↔
        w = 0x00000000#32 ∨ w = 0x00000001#32 ∨ w = 0x00000002#32 ∨ w = 0x00000003#32 ∨
          w = 0x00000004#32 ∨ w = 0x00000005#32 ∨ w = 0x00000205#32 ∨ w = 0x00000006#32 ∨
          w = 0x00000106#32) ∧
      (legalCommandWord w = false → ∀ s : State,
        hostAct (.regWrite 0 w) s = .next { s with
          cmd := w, status := ⟨true, some .illegalCommand, true⟩ })

/-- R91: a word selects a row when `(w and mask) = match`; at most one row matches, and the decoder
reads the command of the row selected. -/
def Obligations.OpcodeRowsSelectTheDecodedCommand : Prop :=
  (∀ (w : Word) (i : Instr),
      decode w = .ok i ↔ ∃ r ∈ opcodeTable, r.selects w = true ∧ r.instr = i) ∧
    opcodeTable.Pairwise (fun r q => ∀ w : Word, ¬ (r.selects w = true ∧ q.selects w = true))

/-- R82: the nine words decode to the nine commands. -/
def Obligations.TableWordsDecode : Prop :=
  decode 0b00000000000000000000000000000000#32 = .ok .nop ∧
    decode 0b00000000000000000000000000000001#32 = .ok .crc ∧
    decode 0b00000000000000000000000000000010#32 = .ok .zadv ∧
    decode 0b00000000000000000000000000000011#32 = .ok .mbuild ∧
    decode 0b00000000000000000000000000000100#32 = .ok .minv ∧
    decode 0b00000000000000000000000000000101#32 = .ok .mvmul ∧
    decode 0b00000000000000000000001000000101#32 = .ok .mvmulM ∧
    decode 0b00000000000000000000000000000110#32 = .ok .comp ∧
    decode 0b00000000000000000000000100000110#32 = .ok .compT

/-! ### The step and the host's actions -/

/-- R194: a host write to `CMD` stores the word and runs the command it decodes to, in one step; the
step takes the action off the queue (the model's own, notes/assumptions/3).  `withFetchWord` is such a
write. -/
def Obligations.StepRunsTheDecodedCommand : Prop :=
  (∀ (s : State) (w : Word) (i : Instr),
      decode w = .ok i → hostAct (.regWrite 0 w) s = exec i { s with cmd := w }) ∧
    (∀ (s : State) (w : Word) (rest : List HostAction) (i : Instr),
      s.pending = .regWrite 0 w :: rest → decode w = .ok i →
        step s = exec i { s with pending := rest, response := .none, cmd := w }) ∧
    ∀ (s : State) (w : Word) (i : Instr),
      decode w = .ok i →
        step (s.withFetchWord 32 w.toNat) = exec i { s with response := .none, cmd := w }

/-- R190, R250: the step is total on the interface's domain, so the engine never reaches an address
that does not exist (R61, R62) and no command hangs; an action outside the domain is refused; with no
action pending nothing changes (the model's own form of it, notes/assumptions/3). -/
def Obligations.EveryStepCompletes : Prop :=
  ∀ s : State,
    (s.nextInDomain = true → ∃ t, step s = .next t) ∧
      (s.nextInDomain = false → step s = .refused .hostAddressOutOfRange) ∧
      (s.pending = [] → step s = .next s)

/-- R73, R190: host actions take effect one at a time, in the order the host issues them, each by
`hostAct`; no step changes the configuration (R20).  The queue and the cleared response are the
model's own (notes/assumptions/3). -/
def Obligations.StepTakesOneHostAction : Prop :=
  (∀ (s : State) (a : HostAction) (rest : List HostAction), s.pending = a :: rest →
      step s = hostAct a { s with pending := rest, response := .none }) ∧
    ∀ s t : State, step s = .next t → t.pending = s.pending.tail ∧ t.cfg = s.cfg

/-- R191: a register read returns the value of the table and changes no state; the response is all
that moves (R190). -/
def Obligations.RegisterReadReturnsTheMappedValue : Prop :=
  ∀ (s : State) (k : WinIndex),
    hostAct (.regRead k) s = .next { s with response := .word (s.windowValue (4 * k.val)) }

/-- R192: a write to an operand register sets that register, a write to `MAT[i]` that word, and
nothing else changes. -/
def Obligations.OperandWriteSetsOneRegister : Prop :=
  ∀ (s : State) (v : Word),
    hostAct (.regWrite 2 v) s = .next { s with addr := v } ∧
      hostAct (.regWrite 3 v) s = .next { s with size := v } ∧
      hostAct (.regWrite 4 v) s = .next { s with target := v } ∧
      hostAct (.regWrite 5 v) s = .next { s with offset := v } ∧
      hostAct (.regWrite 6 v) s = .next { s with vec := v } ∧
      hostAct (.regWrite 7 v) s = .next { s with count := v } ∧
      ∀ (k : WinIndex) (i : Fin 32), 4 * k.val = 0x080 + 4 * i.val →
        ∃ m : Mat, hostAct (.regWrite k v) s = .next { s with mat := m } ∧
          m.get i = v ∧ ∀ j : Fin 32, j ≠ i → m.get j = s.mat.get j

/-- R193: a write to a read-only or reserved offset changes no state at all and reports no error. -/
def Obligations.ReadOnlyWritesAreIgnored : Prop :=
  ∀ (s : State) (k : WinIndex) (v : Word),
    readOnlyOffset (4 * k.val) = true → hostAct (.regWrite k v) s = .next s

/-- R78, R60: the host's memory port reads and writes one byte below `MEM_BYTES` and changes nothing
else; a write keeps the canonical form of memory. -/
def Obligations.HostMemoryPortReadsAndWrites : Prop :=
  ∀ (s : State) (a : BitVec 32) (v : Byte),
    a.toNat < s.cfg.memBytes →
      hostAct (.memRead a) s = .next { s with response := .byte (s.mem.read a.toNat) } ∧
        ∃ m : Memory, hostAct (.memWrite a v) s = .next { s with mem := m } ∧
          m.read a.toNat = v ∧ (∀ b, b ≠ a.toNat → m.read b = s.mem.read b) ∧
          (s.mem.wf = true → m.wf = true)

/-- R240: `Reset` sets every register of the window to its reset value, does not touch memory, and is
the only action that clears `DONE` and `ERRSEEN`; `TABLE` is its constant in every state. -/
def Obligations.ResetRestoresTheRegisters : Prop :=
  (∀ s : State,
      hostAct .reset s = .next {
        cmd := 0#32, status := ⟨false, none, false⟩, addr := 0#32, size := 0#32, target := 0#32
        offset := 0#32, vec := 0#32, count := 0#32, result := 0#32, acc := 0#32, patch := 0#32
        baseCrc := 0#32, mat := Vector.replicate 32 0#32, inv := Vector.replicate 32 0#32
        mem := s.mem, cfg := s.cfg, pending := s.pending, response := s.response }) ∧
    (∀ (s : State) (n : Byte), s.windowValue (0x400 + 4 * n.toNat) = tableEntry n) ∧
    ∀ (a : HostAction) (s t : State), a ≠ .reset → hostAct a s = .next t →
      (s.status.done = true → t.status.done = true) ∧
        (s.status.errSeen = true → t.status.errSeen = true)

/-- R33: the value of every register after reset, whatever `MEM_BYTES` is and whatever memory holds;
reset does not change memory, whose power-on content is an argument. -/
def Obligations.PowerOnValues : Prop :=
  ∀ (c : Config) (m : Memory),
    (∀ k : WinIndex, 4 * k.val < 0x400 → (State.powerOn c m).windowValue (4 * k.val) = 0#32) ∧
      (∀ n : Byte, (State.powerOn c m).windowValue (0x400 + 4 * n.toNat) = tableEntry n) ∧
      (State.powerOn c m).mem = m ∧ (State.powerOn c m).cfg = c ∧
      ∀ s : State, s.cfg = c → s.mem = m →
        hostAct .reset s =
          .next { State.powerOn c m with pending := s.pending, response := s.response }

/-- R34: after reset and before any command `DONE` and the result registers are 0; `minv` then ends
with `Unsolvable`, `mvmul` gives 0, `crc` gives the CRC of the empty buffer. -/
def Obligations.FirstCommandsAfterReset : Prop :=
  ∀ (c : Config) (m : Memory),
    ((State.powerOn c m).result = 0#32 ∧ (State.powerOn c m).acc = 0#32 ∧
        (State.powerOn c m).patch = 0#32 ∧ (State.powerOn c m).baseCrc = 0#32 ∧
        (State.powerOn c m).status.done = false) ∧
      exec .minv (State.powerOn c m) =
        .next { State.powerOn c m with status := ⟨true, some .unsolvable, true⟩ } ∧
      exec .mvmul (State.powerOn c m) =
        .next { State.powerOn c m with result := 0#32, status := ⟨true, none, false⟩ } ∧
      exec .crc (State.powerOn c m) =
        .next { State.powerOn c m with
          result := 0x00000000#32, acc := 0xFFFFFFFF#32, status := ⟨true, none, false⟩ }

/-! ### The commands, one by one: the whole next state, and so the frame -/

/-- R195: `nop`, the word 0, sets `DONE`, clears `ERR`, leaves `ERRSEEN`; nothing else changes. -/
def Obligations.NopResult : Prop :=
  decode 0x00000000#32 = .ok .nop ∧
    ∀ s : State, exec .nop s = .next { s with status := ⟨true, none, s.status.errSeen⟩ }

/-- R110: `crc` on a buffer that fits in memory, and on one that does not. -/
def Obligations.CrcResult : Prop :=
  decode 0x00000001#32 = .ok .crc ∧
    ∀ s : State,
      (s.addr.toNat + s.size.toNat ≤ s.cfg.memBytes →
          exec .crc s = .next { s with
            result := crc32 s.bufferBytes
            acc := crc32 s.bufferBytes ^^^ 0xFFFFFFFF#32
            status := ⟨true, none, s.status.errSeen⟩ }) ∧
        (s.cfg.memBytes < s.addr.toNat + s.size.toNat →
          exec .crc s = .next { s with status := ⟨true, some .addrRange, true⟩ })

/-- R112, R105: `zadv` feeds `COUNT` zero bytes to the accumulator in `VEC`; no final XOR. -/
def Obligations.ZadvResult : Prop :=
  decode 0x00000002#32 = .ok .zadv ∧
    ∀ s : State,
      exec .zadv s = .next { s with
        acc := raw s.vec (List.replicate s.count.toNat 0#8)
        result := raw s.vec (List.replicate s.count.toNat 0#8)
        status := ⟨true, none, s.status.errSeen⟩ }

/-- R140, R132: `mbuild` writes all of `MAT`, each column by the second form of R132, and nothing
else. -/
def Obligations.MbuildResult : Prop :=
  decode 0x00000003#32 = .ok .mbuild ∧
    ∀ s : State,
      ∃ m : Mat,
        exec .mbuild s = .next { s with mat := m, status := ⟨true, none, s.status.errSeen⟩ } ∧
          ∀ i : Fin 32, m.get i = raw 0#32 (le4 (basis i) ++ List.replicate s.count.toNat 0#8)

/-- R142: `minv` writes the inverse of `MAT` to `INV` when `MAT` is invertible, and otherwise ends
with `Unsolvable` and leaves `INV` alone; `MAT` itself never changes. -/
def Obligations.MinvResult : Prop :=
  decode 0x00000004#32 = .ok .minv ∧
    ∀ s : State,
      (Mat.Nonsingular s.mat →
          ∃ b : Mat,
            exec .minv s = .next { s with inv := b, status := ⟨true, none, s.status.errSeen⟩ } ∧
              gf2Invert s.mat = some b ∧ Mat.InverseOf b s.mat) ∧
        (¬ Mat.Nonsingular s.mat →
          exec .minv s = .next { s with status := ⟨true, some .unsolvable, true⟩ })

/-- R144, R136: `mvmul` leaves the product of `INV` and `VEC` in `RESULT`: bit `j` is the XOR of the
bits `INV[i][j]` with `VEC[i] = 1`. -/
def Obligations.MvmulResult : Prop :=
  decode 0x00000005#32 = .ok .mvmul ∧
    ∀ s : State,
      ∃ r : Word,
        exec .mvmul s = .next { s with result := r, status := ⟨true, none, s.status.errSeen⟩ } ∧
          ∀ j, j < 32 →
            r.getLsbD j =
              (List.finRange 32).foldl
                (fun b i => b ^^ (s.vec.getLsbD i.val && (s.inv.get i).getLsbD j)) false

/-- R145: as R144 with `MAT` in place of `INV`. -/
def Obligations.MvmulMResult : Prop :=
  decode 0x00000205#32 = .ok .mvmulM ∧
    ∀ s : State,
      ∃ r : Word,
        exec .mvmulM s = .next { s with result := r, status := ⟨true, none, s.status.errSeen⟩ } ∧
          ∀ j, j < 32 →
            r.getLsbD j =
              (List.finRange 32).foldl
                (fun b i => b ^^ (s.vec.getLsbD i.val && (s.mat.get i).getLsbD j)) false

/-- R163: `comp`, all it can do.  With a valid offset and the buffer inside memory it always succeeds
(R167, R168, R169): the next state is the success row of R165. -/
def Obligations.CompResult : Prop :=
  decode 0x00000006#32 = .ok .comp ∧
    ∀ s : State,
      (s.size.toNat < s.offset.toNat + 4 →
          exec .comp s = .next { s with status := ⟨true, some .invalidOffset, true⟩ }) ∧
        (s.offset.toNat + 4 ≤ s.size.toNat → s.cfg.memBytes < s.addr.toNat + s.size.toNat →
          exec .comp s = .next { s with status := ⟨true, some .addrRange, true⟩ }) ∧
        (s.offset.toNat + 4 ≤ s.size.toNat → s.addr.toNat + s.size.toNat ≤ s.cfg.memBytes →
          Compensated s.offset.toNat s (exec .comp s))

/-- R164: `comp.t`, all it can do; `OFFSET` plays no part.  As for `comp` (R163), with the buffer inside
memory and of at least 4 bytes it always succeeds (R167, R168, R169): the next state is the success
row of R165. -/
def Obligations.CompTResult : Prop :=
  decode 0x00000106#32 = .ok .compT ∧
    ∀ s : State,
      (s.size.toNat < 4 →
          exec .compT s = .next { s with status := ⟨true, some .invalidOffset, true⟩ }) ∧
        (4 ≤ s.size.toNat → s.cfg.memBytes < s.addr.toNat + s.size.toNat →
          exec .compT s = .next { s with status := ⟨true, some .addrRange, true⟩ }) ∧
        (4 ≤ s.size.toNat → s.addr.toNat + s.size.toNat ≤ s.cfg.memBytes →
          Compensated (s.size.toNat - 4) s (exec .compT s))

/-! ### Errors -/

/-- R61, R161, R216: `InvalidOffset` exactly when the patch field does not fit in the buffer,
`AddrRange` exactly when the buffer does not fit in memory and no `InvalidOffset` came first; no sum
wraps. -/
def Obligations.OffsetAndRangeErrorsExactly : Prop :=
  (∀ s t : State, exec .crc s = .next t →
      (t.status.err = some .addrRange ↔ s.cfg.memBytes < s.addr.toNat + s.size.toNat)) ∧
    (∀ s t : State, exec .comp s = .next t →
      (t.status.err = some .invalidOffset ↔ s.size.toNat < s.offset.toNat + 4) ∧
        (t.status.err = some .addrRange ↔
          s.offset.toNat + 4 ≤ s.size.toNat ∧ s.cfg.memBytes < s.addr.toNat + s.size.toNat)) ∧
    ∀ s t : State, exec .compT s = .next t →
      (t.status.err = some .invalidOffset ↔ s.size.toNat < 4) ∧
        (t.status.err = some .addrRange ↔
          4 ≤ s.size.toNat ∧ s.cfg.memBytes < s.addr.toNat + s.size.toNat)

/-- R218: an error leaves everything but `STATUS` as it was (`CMD` was stored before); there is no
partial state.  For `comp` and `comp.t`, where R165 lets `Unsolvable` and `Internal` write registers,
it rests on those two never being raised (R167, R168). -/
def Obligations.ErrorsLeaveEverythingElse : Prop :=
  ∀ (i : Instr) (s t : State) (e : ErrorKind),
    exec i s = .next t → t.status.err = some e →
      t = { s with status := ⟨true, some e, true⟩ }

/-- R215: the codes a command can end with are those of the table, each of them reached by some state
(the two "in form only" are not); an illegal word always ends with `IllegalCommand`. -/
def Obligations.CommandsEndWithTheirCodes : Prop :=
  (∀ (i : Instr) (e : Option ErrorKind),
      mayEndWith i e = true ↔ ∃ s t : State, exec i s = .next t ∧ t.status.err = e) ∧
    ∀ (s : State) (w : Word), legalCommandWord w = false →
      ∃ t, runCommand w s = .next t ∧ t.status.err = some .illegalCommand

/-- R214, R25: every command sets `DONE`, overwrites `ERR`, and sets `ERRSEEN` exactly when it ends
with an error, `ERRSEEN` being sticky; no command reads the previous `STATUS`, but for the sticky
bit. -/
def Obligations.EveryCommandReportsInStatus : Prop :=
  ∀ (i : Instr) (s t : State), exec i s = .next t →
    t.status.done = true ∧ t.status.errSeen = (s.status.errSeen || t.status.err.isSome) ∧
      ∀ st : Status,
        exec i { s with status := st } =
          .next { t with status := ⟨true, t.status.err, st.errSeen || t.status.err.isSome⟩ }

/-- R25: the fields of the `STATUS` word, and zero in every reserved bit; codes 6 to 15 never
occur. -/
def Obligations.StatusWordLayout : Prop :=
  ∀ st : Status,
    st.toWord.getLsbD 0 = st.done ∧ st.toWord.extractLsb' 1 3 = 0#3 ∧
      (st.toWord.extractLsb' 4 4).toNat = errNumber st.err ∧ errNumber st.err ≤ 5 ∧
      st.toWord.getLsbD 8 = st.errSeen ∧ st.toWord.extractLsb' 9 23 = 0#23

/-- R165, R211, R212: the two branches that `comp` must carry and never takes: a singular matrix ends
with `Unsolvable` before `INV` is written, a verification mismatch with `Internal` after `ACC` and
`RESULT` are. -/
def Obligations.MustHandleBranchesStay : Prop :=
  (∀ (off : Nat) (s : State), gf2Invert s.mat = none →
      solveMatrix off s = .next { s with status := ⟨true, some .unsolvable, true⟩ }) ∧
    ∀ s : State, s.addr.toNat + s.size.toNat ≤ s.cfg.memBytes → crc32 s.bufferBytes ≠ s.target →
      verifyPatch s = .next { s with
        acc := crc32 s.bufferBytes ^^^ 0xFFFFFFFF#32
        result := crc32 s.bufferBytes
        status := ⟨true, some .internal, true⟩ }

/-- R168: `comp` and `comp.t` never end with `Internal`. -/
def Obligations.InternalIsNeverRaised : Prop :=
  ∀ (i : Instr) (s t : State), i = .comp ∨ i = .compT → exec i s = .next t →
    t.status.err ≠ some .internal

/-! ### Frames and whole-machine rules -/

/-- R21: the engine never writes an operand register; nor `CMD`, the configuration or the host's
queue and response. -/
def Obligations.EngineNeverWritesOperands : Prop :=
  ∀ (i : Instr) (s t : State), exec i s = .next t →
    t.addr = s.addr ∧ t.size = s.size ∧ t.target = s.target ∧ t.offset = s.offset ∧
      t.vec = s.vec ∧ t.count = s.count ∧ t.cmd = s.cmd ∧ t.cfg = s.cfg ∧
      t.pending = s.pending ∧ t.response = s.response

/-- R32: the result registers and files each command leaves untouched. -/
def Obligations.ResultRegistersByCommand : Prop :=
  ∀ (i : Instr) (s t : State), exec i s = .next t →
    (i = .nop ∨ i = .mbuild ∨ i = .minv → t.result = s.result) ∧
      (i = .nop ∨ i = .mbuild ∨ i = .minv ∨ i = .mvmul ∨ i = .mvmulM → t.acc = s.acc) ∧
      (i ≠ .comp ∧ i ≠ .compT → t.patch = s.patch ∧ t.baseCrc = s.baseCrc ∧ t.mem = s.mem) ∧
      (i ≠ .mbuild ∧ i ≠ .comp ∧ i ≠ .compT → t.mat = s.mat) ∧
      (i ≠ .minv ∧ i ≠ .comp ∧ i ≠ .compT → t.inv = s.inv)

/-- R70: every byte of memory outside the patch field is unchanged by every command, and every byte at
all unless `comp` or `comp.t` succeeds.  The stored address is `ADDR` plus the effective offset the
meanings take.  R70 lets `Internal` change the four bytes; that no error changes a byte rests on
R168. -/
def Obligations.MemoryFrameOfCommands : Prop :=
  ∀ (i : Instr) (s t : State), exec i s = .next t →
    t.size = s.size ∧ (i ≠ .comp ∧ i ≠ .compT → ∀ a, t.mem.read a = s.mem.read a) ∧
      (t.status.err ≠ none → ∀ a, t.mem.read a = s.mem.read a) ∧
      ∀ a, s.outsidePatch i a → t.mem.read a = s.mem.read a

/-- R219, R169 items 2 and 4, R110: issuing a command again with nothing changed in between gives the
same state again; a failed one fails the same way. -/
def Obligations.CommandsAreIdempotent : Prop :=
  ∀ (i : Instr) (s t : State), s.memWf = true → exec i s = .next t → exec i t = .next t

/-- Every step keeps the invariant: memory canonical and inside `MEM_BYTES` (R60), `STATUS` coherent
(R25, R214), the result registers 0 while `DONE` is 0 (R34). -/
def Obligations.StepKeepsTheInvariant : Prop :=
  ∀ s t : State, s.Inv → step s = .next t → t.Inv

/-- The invariant holds after power-on with any memory in canonical form, and at reset. -/
def Obligations.PowerOnMeetsTheInvariant : Prop :=
  (∀ (c : Config) (m : Memory), m.wf = true → m.within c = true → (State.powerOn c m).Inv) ∧
    State.reset.Inv

/-! ### The CRC engine -/

/-- R103, R104, R105: the laws of the passes. -/
def Obligations.EngineFunctionLaws : Prop :=
  (∀ acc : Word, raw acc [] = acc) ∧
    (∀ (acc : Word) (b : Byte) (bs : List Byte), raw acc (b :: bs) = raw (upd acc b) bs) ∧
    (∀ (acc : Word) (x y : List Byte), raw acc (x ++ y) = raw (raw acc x) y) ∧
    (∀ x : List Byte, crc32 x = raw 0xFFFFFFFF#32 x ^^^ 0xFFFFFFFF#32) ∧
    crc32 [] = 0x00000000#32 ∧
    (∀ (acc : Word) (n : Nat), zAdv acc 0 = acc ∧ zAdv acc (n + 1) = zAdv (upd acc 0#8) n ∧
      zAdv acc n = raw acc (List.replicate n 0#8)) ∧
    ∀ acc : Word, upd acc 0#8 = tableEntry (acc.extractLsb' 0 8) ^^^ (acc >>> 8)

/-- The reader's checks of R101: the table is linear in its index, `TABLE[0] = 0`,
`TABLE[128] = POLY`, the XOR of all 256 entries is 0, the top bytes are distinct. -/
def Obligations.LookupTableFacts : Prop :=
  (∀ a b : Byte, tableEntry (a ^^^ b) = tableEntry a ^^^ tableEntry b) ∧
    tableEntry 0#8 = 0#32 ∧ tableEntry 128#8 = 0xEDB88320#32 ∧
    (List.range 256).foldl (fun x n => x ^^^ tableEntry (BitVec.ofNat 8 n)) 0#32 = 0#32 ∧
    ∀ a b : Byte, (tableEntry a).extractLsb' 24 8 = (tableEntry b).extractLsb' 24 8 → a = b

/-- R107: linearity, its four items. -/
def Obligations.UpdateIsLinear : Prop :=
  (upd 0#32 0#8 = 0#32 ∧
      ∀ n : Nat, zAdv 0#32 n = 0#32 ∧ raw 0#32 (List.replicate n 0#8) = 0#32) ∧
    (∀ (a a' : Word) (b b' : Byte), upd (a ^^^ a') (b ^^^ b') = upd a b ^^^ upd a' b') ∧
    (∀ (x x' : List Byte) (a a' : Word), x.length = x'.length →
      raw (a ^^^ a') (List.zipWith (fun b b' => b ^^^ b') x x') = raw a x ^^^ raw a' x') ∧
    ∀ x d : List Byte, x.length = d.length →
      crc32 (List.zipWith (fun b b' => b ^^^ b') x d) = crc32 x ^^^ raw 0#32 d

/-- R108: `Upd(., 0)` and `ZAdv(., n)` are bijections on words. -/
def Obligations.ZeroAdvanceIsBijective : Prop :=
  Function.Bijective (fun a : Word => upd a 0#8) ∧
    ∀ n : Nat, Function.Bijective (fun a : Word => zAdv a n)

/-- R64: `MemWrite(addr, 4, v)` is four byte writes, the least significant byte at the lowest address,
and changes nothing else. -/
def Obligations.WordIsStoredLittleEndian : Prop :=
  ∀ (s : State) (a : Nat) (v : Word), a + 3 < s.cfg.memBytes →
    ∃ m : Memory, s.memWrite4 a v = some { s with mem := m } ∧
      (∀ k, k < 4 → m.read (a + k) = byteOf v k) ∧
      ∀ b, b < a ∨ a + 4 ≤ b → m.read b = s.mem.read b

/-- `crc` depends on memory only through the bytes of its buffer (R65, R110). -/
def Obligations.CrcDependsOnlyOnItsBuffer : Prop :=
  ∀ (s t : State) (m : Memory),
    (∀ k, k < s.size.toNat → m.read (s.addr.toNat + k) = s.mem.read (s.addr.toNat + k)) →
      exec .crc s = .next t → exec .crc { s with mem := m } = .next { t with mem := m }

/-! ### The matrix engine -/

/-- R131: the four bytes of a word, least significant first, and those of a basis vector. -/
def Obligations.BasisVectorBytes : Prop :=
  (∀ w : Word, le4 w =
      [w.extractLsb' 0 8, w.extractLsb' 8 8, w.extractLsb' 16 8, w.extractLsb' 24 8]) ∧
    ∀ i : Fin 32,
      le4 (basis i) =
        (List.range 4).map fun k => if k = i.val / 8 then 1#8 <<< (i.val % 8) else 0#8

/-- R136: bit `j` of `MulVec(X, v)` is the XOR of the bits `X[i][j]` with `v[i] = 1`; `MulVec` is
linear and reads off columns. -/
def Obligations.MulVecIsLinear : Prop :=
  ∀ x : Mat,
    (∀ (v : Word) (j : Nat), j < 32 →
      (mulVec x v).getLsbD j =
        (List.finRange 32).foldl
          (fun b i => b ^^ (v.getLsbD i.val && (x.get i).getLsbD j)) false) ∧
    mulVec x 0#32 = 0#32 ∧ (∀ i : Fin 32, mulVec x (basis i) = x.get i) ∧
      ∀ v v' : Word, mulVec x (v ^^^ v') = mulVec x v ^^^ mulVec x v'

/-- R135: when Gaussian elimination succeeds it gives the inverse, on both sides, whose words are the
columns of it; it fails exactly when the words are linearly dependent. -/
def Obligations.InversionIsCorrect : Prop :=
  ∀ a : Mat,
    (∀ b : Mat, gf2Invert a = some b →
        Mat.InverseOf b a ∧ ∀ i : Fin 32, mulVec a (b.get i) = basis i) ∧
      (gf2Invert a = none ↔ ¬ Mat.Nonsingular a)

/-- The facts of R133 about `MBuild`: its last words for `t = 0`, its recurrence, and linearity. -/
def Obligations.MBuildFacts : Prop :=
  (∀ k : Fin 8, (mBuild 0).get ⟨24 + k.val, by omega⟩ = tableEntry (1#8 <<< k.val)) ∧
    (∀ (t : Nat) (i : Fin 24), (mBuild (t + 1)).get ⟨i.val + 8, by omega⟩ =
      (mBuild t).get ⟨i.val, by omega⟩) ∧
    ∀ (t : Nat) (p : Word),
      mulVec (mBuild t) p = raw 0#32 (le4 p ++ List.replicate t 0#8)

/-- R167: `MBuild(t)` is invertible for every `t`, being `ZAdv(., t + 4)`; hence `comp` and `comp.t`
never end with `Unsolvable`. -/
def Obligations.MBuildIsInvertible : Prop :=
  (∀ t : Nat, Mat.Nonsingular (mBuild t) ∧ gf2Invert (mBuild t) ≠ none ∧
      ∀ p : Word, mulVec (mBuild t) p = zAdv p (t + 4)) ∧
    ∀ (i : Instr) (s t : State), i = .comp ∨ i = .compT → exec i s = .next t →
      t.status.err ≠ some .unsolvable

/-! ### The patch synthesizer -/

/-- R162: the bytes in the patch field have no influence on any result: with other bytes there the
command ends in the same state, but for memory, and on success memory too reads the same. -/
def Obligations.PatchFieldIsNotRead : Prop :=
  ∀ (i : Instr) (s t : State) (m : Memory), i = .comp ∨ i = .compT →
    (∀ a, s.outsidePatch i a → m.read a = s.mem.read a) → exec i s = .next t →
      ∃ m' : Memory, exec i { s with mem := m } = .next { t with mem := m' } ∧
        (t.status.err = none → ∀ a, m'.read a = t.mem.read a)

/-- R166: `Crc32(x_p) = baseCrc xor MulVec(MBuild(t), p)`, so the patched buffer has the CRC `TARGET`
exactly when `p` solves the operative equation, as the word computed from the inverse does. -/
def Obligations.PatchedCrcIdentity : Prop :=
  ∀ (s : State) (off : Nat) (p : Word), off + 4 ≤ s.size.toNat →
    crc32 (s.patchedBytes off p) =
        crc32 (s.baseBytes off) ^^^ mulVec (mBuild (s.size.toNat - off - 4)) p ∧
      (crc32 (s.patchedBytes off p) = s.target ↔
        mulVec (mBuild (s.size.toNat - off - 4)) p = s.target ^^^ crc32 (s.baseBytes off)) ∧
      ∀ b : Mat, gf2Invert (mBuild (s.size.toNat - off - 4)) = some b →
        p = mulVec b (s.target ^^^ crc32 (s.baseBytes off)) →
          crc32 (s.patchedBytes off p) = s.target

/-- R171: exactly one patch word gives a buffer the CRC wanted; when the buffer has it already, `comp`
and `comp.t` compute the word already there and leave every byte as it was. -/
def Obligations.PatchWordIsUnique : Prop :=
  (∀ (s : State) (off : Nat) (c : Word), off + 4 ≤ s.size.toNat →
      ∃! p : Word, crc32 (s.patchedBytes off p) = c) ∧
    ∀ (i : Instr) (s t : State), i = .comp ∨ i = .compT →
      crc32 s.bufferBytes = s.target → exec i s = .next t → t.status.err = none →
        (∀ a, t.mem.read a = s.mem.read a) ∧
          ∀ k, k < 4 → byteOf t.patch k = s.mem.read (s.addr.toNat + s.patchOffset i + k)

/-- R169 item 1: after a `comp` or `comp.t` that ended without error, a `crc` with the same operands
gives `RESULT = TARGET`; the length is not changed (item 3).  R170: with `TARGET = A xor 0xFFFFFFFF`
the raw accumulator is forced to `A`. -/
def Obligations.ForcedCrcIsReadBack : Prop :=
  ∀ (i : Instr) (s t : State), i = .comp ∨ i = .compT → exec i s = .next t →
    t.status.err = none →
      t.size = s.size ∧ crc32 t.bufferBytes = s.target ∧
        (∀ a : Word, s.target = a ^^^ 0xFFFFFFFF#32 → t.acc = a) ∧
        ∃ u, exec .crc t = .next u ∧ u.result = s.target ∧ u.status.err = none
end

