-- ==== Sys2Proof/Laws/State.lean ====
section
/-! SUPPORT. One lemma per field of `State` and named update, each true by `rfl`, so that no later proof
unfolds a record update. -/

namespace Sys2Proof.Machine

/-! ### `State.putMem` -/

@[simp] theorem State.putMem_cmd (s : State) (m : Memory) : (s.putMem m).cmd = s.cmd := rfl
@[simp] theorem State.putMem_status (s : State) (m : Memory) : (s.putMem m).status = s.status := rfl
@[simp] theorem State.putMem_addr (s : State) (m : Memory) : (s.putMem m).addr = s.addr := rfl
@[simp] theorem State.putMem_size (s : State) (m : Memory) : (s.putMem m).size = s.size := rfl
@[simp] theorem State.putMem_target (s : State) (m : Memory) : (s.putMem m).target = s.target := rfl
@[simp] theorem State.putMem_offset (s : State) (m : Memory) : (s.putMem m).offset = s.offset := rfl
@[simp] theorem State.putMem_vec (s : State) (m : Memory) : (s.putMem m).vec = s.vec := rfl
@[simp] theorem State.putMem_count (s : State) (m : Memory) : (s.putMem m).count = s.count := rfl
@[simp] theorem State.putMem_result (s : State) (m : Memory) : (s.putMem m).result = s.result := rfl
@[simp] theorem State.putMem_acc (s : State) (m : Memory) : (s.putMem m).acc = s.acc := rfl
@[simp] theorem State.putMem_patch (s : State) (m : Memory) : (s.putMem m).patch = s.patch := rfl
@[simp] theorem State.putMem_baseCrc (s : State) (m : Memory) : (s.putMem m).baseCrc = s.baseCrc := rfl
@[simp] theorem State.putMem_mat (s : State) (m : Memory) : (s.putMem m).mat = s.mat := rfl
@[simp] theorem State.putMem_inv (s : State) (m : Memory) : (s.putMem m).inv = s.inv := rfl
@[simp] theorem State.putMem_mem (s : State) (m : Memory) : (s.putMem m).mem = m := rfl
@[simp] theorem State.putMem_cfg (s : State) (m : Memory) : (s.putMem m).cfg = s.cfg := rfl
@[simp] theorem State.putMem_pending (s : State) (m : Memory) : (s.putMem m).pending = s.pending := rfl
@[simp] theorem State.putMem_response (s : State) (m : Memory) : (s.putMem m).response = s.response := rfl

/-! ### `State.putCmd` -/

@[simp] theorem State.putCmd_cmd (s : State) (w : Word) : (s.putCmd w).cmd = w := rfl
@[simp] theorem State.putCmd_status (s : State) (w : Word) : (s.putCmd w).status = s.status := rfl
@[simp] theorem State.putCmd_addr (s : State) (w : Word) : (s.putCmd w).addr = s.addr := rfl
@[simp] theorem State.putCmd_size (s : State) (w : Word) : (s.putCmd w).size = s.size := rfl
@[simp] theorem State.putCmd_target (s : State) (w : Word) : (s.putCmd w).target = s.target := rfl
@[simp] theorem State.putCmd_offset (s : State) (w : Word) : (s.putCmd w).offset = s.offset := rfl
@[simp] theorem State.putCmd_vec (s : State) (w : Word) : (s.putCmd w).vec = s.vec := rfl
@[simp] theorem State.putCmd_count (s : State) (w : Word) : (s.putCmd w).count = s.count := rfl
@[simp] theorem State.putCmd_result (s : State) (w : Word) : (s.putCmd w).result = s.result := rfl
@[simp] theorem State.putCmd_acc (s : State) (w : Word) : (s.putCmd w).acc = s.acc := rfl
@[simp] theorem State.putCmd_patch (s : State) (w : Word) : (s.putCmd w).patch = s.patch := rfl
@[simp] theorem State.putCmd_baseCrc (s : State) (w : Word) : (s.putCmd w).baseCrc = s.baseCrc := rfl
@[simp] theorem State.putCmd_mat (s : State) (w : Word) : (s.putCmd w).mat = s.mat := rfl
@[simp] theorem State.putCmd_inv (s : State) (w : Word) : (s.putCmd w).inv = s.inv := rfl
@[simp] theorem State.putCmd_mem (s : State) (w : Word) : (s.putCmd w).mem = s.mem := rfl
@[simp] theorem State.putCmd_cfg (s : State) (w : Word) : (s.putCmd w).cfg = s.cfg := rfl
@[simp] theorem State.putCmd_pending (s : State) (w : Word) : (s.putCmd w).pending = s.pending := rfl
@[simp] theorem State.putCmd_response (s : State) (w : Word) : (s.putCmd w).response = s.response := rfl

/-! ### `State.raise` -/

@[simp] theorem State.raise_cmd (s : State) (e : ErrorKind) : (s.raise e).cmd = s.cmd := rfl
@[simp] theorem State.raise_status (s : State) (e : ErrorKind) : (s.raise e).status = s.status.failWith e := rfl
@[simp] theorem State.raise_addr (s : State) (e : ErrorKind) : (s.raise e).addr = s.addr := rfl
@[simp] theorem State.raise_size (s : State) (e : ErrorKind) : (s.raise e).size = s.size := rfl
@[simp] theorem State.raise_target (s : State) (e : ErrorKind) : (s.raise e).target = s.target := rfl
@[simp] theorem State.raise_offset (s : State) (e : ErrorKind) : (s.raise e).offset = s.offset := rfl
@[simp] theorem State.raise_vec (s : State) (e : ErrorKind) : (s.raise e).vec = s.vec := rfl
@[simp] theorem State.raise_count (s : State) (e : ErrorKind) : (s.raise e).count = s.count := rfl
@[simp] theorem State.raise_result (s : State) (e : ErrorKind) : (s.raise e).result = s.result := rfl
@[simp] theorem State.raise_acc (s : State) (e : ErrorKind) : (s.raise e).acc = s.acc := rfl
@[simp] theorem State.raise_patch (s : State) (e : ErrorKind) : (s.raise e).patch = s.patch := rfl
@[simp] theorem State.raise_baseCrc (s : State) (e : ErrorKind) : (s.raise e).baseCrc = s.baseCrc := rfl
@[simp] theorem State.raise_mat (s : State) (e : ErrorKind) : (s.raise e).mat = s.mat := rfl
@[simp] theorem State.raise_inv (s : State) (e : ErrorKind) : (s.raise e).inv = s.inv := rfl
@[simp] theorem State.raise_mem (s : State) (e : ErrorKind) : (s.raise e).mem = s.mem := rfl
@[simp] theorem State.raise_cfg (s : State) (e : ErrorKind) : (s.raise e).cfg = s.cfg := rfl
@[simp] theorem State.raise_pending (s : State) (e : ErrorKind) : (s.raise e).pending = s.pending := rfl
@[simp] theorem State.raise_response (s : State) (e : ErrorKind) : (s.raise e).response = s.response := rfl

/-! ### `State.complete` -/

@[simp] theorem State.complete_cmd (s : State) : (s.complete).cmd = s.cmd := rfl
@[simp] theorem State.complete_status (s : State) : (s.complete).status = s.status.succeed := rfl
@[simp] theorem State.complete_addr (s : State) : (s.complete).addr = s.addr := rfl
@[simp] theorem State.complete_size (s : State) : (s.complete).size = s.size := rfl
@[simp] theorem State.complete_target (s : State) : (s.complete).target = s.target := rfl
@[simp] theorem State.complete_offset (s : State) : (s.complete).offset = s.offset := rfl
@[simp] theorem State.complete_vec (s : State) : (s.complete).vec = s.vec := rfl
@[simp] theorem State.complete_count (s : State) : (s.complete).count = s.count := rfl
@[simp] theorem State.complete_result (s : State) : (s.complete).result = s.result := rfl
@[simp] theorem State.complete_acc (s : State) : (s.complete).acc = s.acc := rfl
@[simp] theorem State.complete_patch (s : State) : (s.complete).patch = s.patch := rfl
@[simp] theorem State.complete_baseCrc (s : State) : (s.complete).baseCrc = s.baseCrc := rfl
@[simp] theorem State.complete_mat (s : State) : (s.complete).mat = s.mat := rfl
@[simp] theorem State.complete_inv (s : State) : (s.complete).inv = s.inv := rfl
@[simp] theorem State.complete_mem (s : State) : (s.complete).mem = s.mem := rfl
@[simp] theorem State.complete_cfg (s : State) : (s.complete).cfg = s.cfg := rfl
@[simp] theorem State.complete_pending (s : State) : (s.complete).pending = s.pending := rfl
@[simp] theorem State.complete_response (s : State) : (s.complete).response = s.response := rfl

/-! ### `State.putAccResult` -/

@[simp] theorem State.putAccResult_cmd (s : State) (a r : Word) : (s.putAccResult a r).cmd = s.cmd := rfl
@[simp] theorem State.putAccResult_status (s : State) (a r : Word) : (s.putAccResult a r).status = s.status := rfl
@[simp] theorem State.putAccResult_addr (s : State) (a r : Word) : (s.putAccResult a r).addr = s.addr := rfl
@[simp] theorem State.putAccResult_size (s : State) (a r : Word) : (s.putAccResult a r).size = s.size := rfl
@[simp] theorem State.putAccResult_target (s : State) (a r : Word) : (s.putAccResult a r).target = s.target := rfl
@[simp] theorem State.putAccResult_offset (s : State) (a r : Word) : (s.putAccResult a r).offset = s.offset := rfl
@[simp] theorem State.putAccResult_vec (s : State) (a r : Word) : (s.putAccResult a r).vec = s.vec := rfl
@[simp] theorem State.putAccResult_count (s : State) (a r : Word) : (s.putAccResult a r).count = s.count := rfl
@[simp] theorem State.putAccResult_result (s : State) (a r : Word) : (s.putAccResult a r).result = r := rfl
@[simp] theorem State.putAccResult_acc (s : State) (a r : Word) : (s.putAccResult a r).acc = a := rfl
@[simp] theorem State.putAccResult_patch (s : State) (a r : Word) : (s.putAccResult a r).patch = s.patch := rfl
@[simp] theorem State.putAccResult_baseCrc (s : State) (a r : Word) : (s.putAccResult a r).baseCrc = s.baseCrc := rfl
@[simp] theorem State.putAccResult_mat (s : State) (a r : Word) : (s.putAccResult a r).mat = s.mat := rfl
@[simp] theorem State.putAccResult_inv (s : State) (a r : Word) : (s.putAccResult a r).inv = s.inv := rfl
@[simp] theorem State.putAccResult_mem (s : State) (a r : Word) : (s.putAccResult a r).mem = s.mem := rfl
@[simp] theorem State.putAccResult_cfg (s : State) (a r : Word) : (s.putAccResult a r).cfg = s.cfg := rfl
@[simp] theorem State.putAccResult_pending (s : State) (a r : Word) : (s.putAccResult a r).pending = s.pending := rfl
@[simp] theorem State.putAccResult_response (s : State) (a r : Word) : (s.putAccResult a r).response = s.response := rfl

/-! ### `State.putResult` -/

@[simp] theorem State.putResult_cmd (s : State) (r : Word) : (s.putResult r).cmd = s.cmd := rfl
@[simp] theorem State.putResult_status (s : State) (r : Word) : (s.putResult r).status = s.status := rfl
@[simp] theorem State.putResult_addr (s : State) (r : Word) : (s.putResult r).addr = s.addr := rfl
@[simp] theorem State.putResult_size (s : State) (r : Word) : (s.putResult r).size = s.size := rfl
@[simp] theorem State.putResult_target (s : State) (r : Word) : (s.putResult r).target = s.target := rfl
@[simp] theorem State.putResult_offset (s : State) (r : Word) : (s.putResult r).offset = s.offset := rfl
@[simp] theorem State.putResult_vec (s : State) (r : Word) : (s.putResult r).vec = s.vec := rfl
@[simp] theorem State.putResult_count (s : State) (r : Word) : (s.putResult r).count = s.count := rfl
@[simp] theorem State.putResult_result (s : State) (r : Word) : (s.putResult r).result = r := rfl
@[simp] theorem State.putResult_acc (s : State) (r : Word) : (s.putResult r).acc = s.acc := rfl
@[simp] theorem State.putResult_patch (s : State) (r : Word) : (s.putResult r).patch = s.patch := rfl
@[simp] theorem State.putResult_baseCrc (s : State) (r : Word) : (s.putResult r).baseCrc = s.baseCrc := rfl
@[simp] theorem State.putResult_mat (s : State) (r : Word) : (s.putResult r).mat = s.mat := rfl
@[simp] theorem State.putResult_inv (s : State) (r : Word) : (s.putResult r).inv = s.inv := rfl
@[simp] theorem State.putResult_mem (s : State) (r : Word) : (s.putResult r).mem = s.mem := rfl
@[simp] theorem State.putResult_cfg (s : State) (r : Word) : (s.putResult r).cfg = s.cfg := rfl
@[simp] theorem State.putResult_pending (s : State) (r : Word) : (s.putResult r).pending = s.pending := rfl
@[simp] theorem State.putResult_response (s : State) (r : Word) : (s.putResult r).response = s.response := rfl

/-! ### `State.putAccBase` -/

@[simp] theorem State.putAccBase_cmd (s : State) (a b : Word) : (s.putAccBase a b).cmd = s.cmd := rfl
@[simp] theorem State.putAccBase_status (s : State) (a b : Word) : (s.putAccBase a b).status = s.status := rfl
@[simp] theorem State.putAccBase_addr (s : State) (a b : Word) : (s.putAccBase a b).addr = s.addr := rfl
@[simp] theorem State.putAccBase_size (s : State) (a b : Word) : (s.putAccBase a b).size = s.size := rfl
@[simp] theorem State.putAccBase_target (s : State) (a b : Word) : (s.putAccBase a b).target = s.target := rfl
@[simp] theorem State.putAccBase_offset (s : State) (a b : Word) : (s.putAccBase a b).offset = s.offset := rfl
@[simp] theorem State.putAccBase_vec (s : State) (a b : Word) : (s.putAccBase a b).vec = s.vec := rfl
@[simp] theorem State.putAccBase_count (s : State) (a b : Word) : (s.putAccBase a b).count = s.count := rfl
@[simp] theorem State.putAccBase_result (s : State) (a b : Word) : (s.putAccBase a b).result = s.result := rfl
@[simp] theorem State.putAccBase_acc (s : State) (a b : Word) : (s.putAccBase a b).acc = a := rfl
@[simp] theorem State.putAccBase_patch (s : State) (a b : Word) : (s.putAccBase a b).patch = s.patch := rfl
@[simp] theorem State.putAccBase_baseCrc (s : State) (a b : Word) : (s.putAccBase a b).baseCrc = b := rfl
@[simp] theorem State.putAccBase_mat (s : State) (a b : Word) : (s.putAccBase a b).mat = s.mat := rfl
@[simp] theorem State.putAccBase_inv (s : State) (a b : Word) : (s.putAccBase a b).inv = s.inv := rfl
@[simp] theorem State.putAccBase_mem (s : State) (a b : Word) : (s.putAccBase a b).mem = s.mem := rfl
@[simp] theorem State.putAccBase_cfg (s : State) (a b : Word) : (s.putAccBase a b).cfg = s.cfg := rfl
@[simp] theorem State.putAccBase_pending (s : State) (a b : Word) : (s.putAccBase a b).pending = s.pending := rfl
@[simp] theorem State.putAccBase_response (s : State) (a b : Word) : (s.putAccBase a b).response = s.response := rfl

/-! ### `State.putPatch` -/

@[simp] theorem State.putPatch_cmd (s : State) (p : Word) : (s.putPatch p).cmd = s.cmd := rfl
@[simp] theorem State.putPatch_status (s : State) (p : Word) : (s.putPatch p).status = s.status := rfl
@[simp] theorem State.putPatch_addr (s : State) (p : Word) : (s.putPatch p).addr = s.addr := rfl
@[simp] theorem State.putPatch_size (s : State) (p : Word) : (s.putPatch p).size = s.size := rfl
@[simp] theorem State.putPatch_target (s : State) (p : Word) : (s.putPatch p).target = s.target := rfl
@[simp] theorem State.putPatch_offset (s : State) (p : Word) : (s.putPatch p).offset = s.offset := rfl
@[simp] theorem State.putPatch_vec (s : State) (p : Word) : (s.putPatch p).vec = s.vec := rfl
@[simp] theorem State.putPatch_count (s : State) (p : Word) : (s.putPatch p).count = s.count := rfl
@[simp] theorem State.putPatch_result (s : State) (p : Word) : (s.putPatch p).result = s.result := rfl
@[simp] theorem State.putPatch_acc (s : State) (p : Word) : (s.putPatch p).acc = s.acc := rfl
@[simp] theorem State.putPatch_patch (s : State) (p : Word) : (s.putPatch p).patch = p := rfl
@[simp] theorem State.putPatch_baseCrc (s : State) (p : Word) : (s.putPatch p).baseCrc = s.baseCrc := rfl
@[simp] theorem State.putPatch_mat (s : State) (p : Word) : (s.putPatch p).mat = s.mat := rfl
@[simp] theorem State.putPatch_inv (s : State) (p : Word) : (s.putPatch p).inv = s.inv := rfl
@[simp] theorem State.putPatch_mem (s : State) (p : Word) : (s.putPatch p).mem = s.mem := rfl
@[simp] theorem State.putPatch_cfg (s : State) (p : Word) : (s.putPatch p).cfg = s.cfg := rfl
@[simp] theorem State.putPatch_pending (s : State) (p : Word) : (s.putPatch p).pending = s.pending := rfl
@[simp] theorem State.putPatch_response (s : State) (p : Word) : (s.putPatch p).response = s.response := rfl

/-! ### `State.putMat` -/

@[simp] theorem State.putMat_cmd (s : State) (m : Mat) : (s.putMat m).cmd = s.cmd := rfl
@[simp] theorem State.putMat_status (s : State) (m : Mat) : (s.putMat m).status = s.status := rfl
@[simp] theorem State.putMat_addr (s : State) (m : Mat) : (s.putMat m).addr = s.addr := rfl
@[simp] theorem State.putMat_size (s : State) (m : Mat) : (s.putMat m).size = s.size := rfl
@[simp] theorem State.putMat_target (s : State) (m : Mat) : (s.putMat m).target = s.target := rfl
@[simp] theorem State.putMat_offset (s : State) (m : Mat) : (s.putMat m).offset = s.offset := rfl
@[simp] theorem State.putMat_vec (s : State) (m : Mat) : (s.putMat m).vec = s.vec := rfl
@[simp] theorem State.putMat_count (s : State) (m : Mat) : (s.putMat m).count = s.count := rfl
@[simp] theorem State.putMat_result (s : State) (m : Mat) : (s.putMat m).result = s.result := rfl
@[simp] theorem State.putMat_acc (s : State) (m : Mat) : (s.putMat m).acc = s.acc := rfl
@[simp] theorem State.putMat_patch (s : State) (m : Mat) : (s.putMat m).patch = s.patch := rfl
@[simp] theorem State.putMat_baseCrc (s : State) (m : Mat) : (s.putMat m).baseCrc = s.baseCrc := rfl
@[simp] theorem State.putMat_mat (s : State) (m : Mat) : (s.putMat m).mat = m := rfl
@[simp] theorem State.putMat_inv (s : State) (m : Mat) : (s.putMat m).inv = s.inv := rfl
@[simp] theorem State.putMat_mem (s : State) (m : Mat) : (s.putMat m).mem = s.mem := rfl
@[simp] theorem State.putMat_cfg (s : State) (m : Mat) : (s.putMat m).cfg = s.cfg := rfl
@[simp] theorem State.putMat_pending (s : State) (m : Mat) : (s.putMat m).pending = s.pending := rfl
@[simp] theorem State.putMat_response (s : State) (m : Mat) : (s.putMat m).response = s.response := rfl

/-! ### `State.putInv` -/

@[simp] theorem State.putInv_cmd (s : State) (m : Mat) : (s.putInv m).cmd = s.cmd := rfl
@[simp] theorem State.putInv_status (s : State) (m : Mat) : (s.putInv m).status = s.status := rfl
@[simp] theorem State.putInv_addr (s : State) (m : Mat) : (s.putInv m).addr = s.addr := rfl
@[simp] theorem State.putInv_size (s : State) (m : Mat) : (s.putInv m).size = s.size := rfl
@[simp] theorem State.putInv_target (s : State) (m : Mat) : (s.putInv m).target = s.target := rfl
@[simp] theorem State.putInv_offset (s : State) (m : Mat) : (s.putInv m).offset = s.offset := rfl
@[simp] theorem State.putInv_vec (s : State) (m : Mat) : (s.putInv m).vec = s.vec := rfl
@[simp] theorem State.putInv_count (s : State) (m : Mat) : (s.putInv m).count = s.count := rfl
@[simp] theorem State.putInv_result (s : State) (m : Mat) : (s.putInv m).result = s.result := rfl
@[simp] theorem State.putInv_acc (s : State) (m : Mat) : (s.putInv m).acc = s.acc := rfl
@[simp] theorem State.putInv_patch (s : State) (m : Mat) : (s.putInv m).patch = s.patch := rfl
@[simp] theorem State.putInv_baseCrc (s : State) (m : Mat) : (s.putInv m).baseCrc = s.baseCrc := rfl
@[simp] theorem State.putInv_mat (s : State) (m : Mat) : (s.putInv m).mat = s.mat := rfl
@[simp] theorem State.putInv_inv (s : State) (m : Mat) : (s.putInv m).inv = m := rfl
@[simp] theorem State.putInv_mem (s : State) (m : Mat) : (s.putInv m).mem = s.mem := rfl
@[simp] theorem State.putInv_cfg (s : State) (m : Mat) : (s.putInv m).cfg = s.cfg := rfl
@[simp] theorem State.putInv_pending (s : State) (m : Mat) : (s.putInv m).pending = s.pending := rfl
@[simp] theorem State.putInv_response (s : State) (m : Mat) : (s.putInv m).response = s.response := rfl

/-! ### `State.respond` -/

@[simp] theorem State.respond_cmd (s : State) (r : Response) : (s.respond r).cmd = s.cmd := rfl
@[simp] theorem State.respond_status (s : State) (r : Response) : (s.respond r).status = s.status := rfl
@[simp] theorem State.respond_addr (s : State) (r : Response) : (s.respond r).addr = s.addr := rfl
@[simp] theorem State.respond_size (s : State) (r : Response) : (s.respond r).size = s.size := rfl
@[simp] theorem State.respond_target (s : State) (r : Response) : (s.respond r).target = s.target := rfl
@[simp] theorem State.respond_offset (s : State) (r : Response) : (s.respond r).offset = s.offset := rfl
@[simp] theorem State.respond_vec (s : State) (r : Response) : (s.respond r).vec = s.vec := rfl
@[simp] theorem State.respond_count (s : State) (r : Response) : (s.respond r).count = s.count := rfl
@[simp] theorem State.respond_result (s : State) (r : Response) : (s.respond r).result = s.result := rfl
@[simp] theorem State.respond_acc (s : State) (r : Response) : (s.respond r).acc = s.acc := rfl
@[simp] theorem State.respond_patch (s : State) (r : Response) : (s.respond r).patch = s.patch := rfl
@[simp] theorem State.respond_baseCrc (s : State) (r : Response) : (s.respond r).baseCrc = s.baseCrc := rfl
@[simp] theorem State.respond_mat (s : State) (r : Response) : (s.respond r).mat = s.mat := rfl
@[simp] theorem State.respond_inv (s : State) (r : Response) : (s.respond r).inv = s.inv := rfl
@[simp] theorem State.respond_mem (s : State) (r : Response) : (s.respond r).mem = s.mem := rfl
@[simp] theorem State.respond_cfg (s : State) (r : Response) : (s.respond r).cfg = s.cfg := rfl
@[simp] theorem State.respond_pending (s : State) (r : Response) : (s.respond r).pending = s.pending := rfl
@[simp] theorem State.respond_response (s : State) (r : Response) : (s.respond r).response = r := rfl

/-! ### `State.takeAction` -/

@[simp] theorem State.takeAction_cmd (s : State) (rest : List HostAction) : (s.takeAction rest).cmd = s.cmd := rfl
@[simp] theorem State.takeAction_status (s : State) (rest : List HostAction) : (s.takeAction rest).status = s.status := rfl
@[simp] theorem State.takeAction_addr (s : State) (rest : List HostAction) : (s.takeAction rest).addr = s.addr := rfl
@[simp] theorem State.takeAction_size (s : State) (rest : List HostAction) : (s.takeAction rest).size = s.size := rfl
@[simp] theorem State.takeAction_target (s : State) (rest : List HostAction) : (s.takeAction rest).target = s.target := rfl
@[simp] theorem State.takeAction_offset (s : State) (rest : List HostAction) : (s.takeAction rest).offset = s.offset := rfl
@[simp] theorem State.takeAction_vec (s : State) (rest : List HostAction) : (s.takeAction rest).vec = s.vec := rfl
@[simp] theorem State.takeAction_count (s : State) (rest : List HostAction) : (s.takeAction rest).count = s.count := rfl
@[simp] theorem State.takeAction_result (s : State) (rest : List HostAction) : (s.takeAction rest).result = s.result := rfl
@[simp] theorem State.takeAction_acc (s : State) (rest : List HostAction) : (s.takeAction rest).acc = s.acc := rfl
@[simp] theorem State.takeAction_patch (s : State) (rest : List HostAction) : (s.takeAction rest).patch = s.patch := rfl
@[simp] theorem State.takeAction_baseCrc (s : State) (rest : List HostAction) : (s.takeAction rest).baseCrc = s.baseCrc := rfl
@[simp] theorem State.takeAction_mat (s : State) (rest : List HostAction) : (s.takeAction rest).mat = s.mat := rfl
@[simp] theorem State.takeAction_inv (s : State) (rest : List HostAction) : (s.takeAction rest).inv = s.inv := rfl
@[simp] theorem State.takeAction_mem (s : State) (rest : List HostAction) : (s.takeAction rest).mem = s.mem := rfl
@[simp] theorem State.takeAction_cfg (s : State) (rest : List HostAction) : (s.takeAction rest).cfg = s.cfg := rfl
@[simp] theorem State.takeAction_pending (s : State) (rest : List HostAction) : (s.takeAction rest).pending = rest := rfl
@[simp] theorem State.takeAction_response (s : State) (rest : List HostAction) : (s.takeAction rest).response = Response.none := rfl

/-! ### `State.resetRegisters` -/

@[simp] theorem State.resetRegisters_cmd (s : State) : s.resetRegisters.cmd = 0#32 := rfl
@[simp] theorem State.resetRegisters_status (s : State) : s.resetRegisters.status = Status.reset := rfl
@[simp] theorem State.resetRegisters_addr (s : State) : s.resetRegisters.addr = 0#32 := rfl
@[simp] theorem State.resetRegisters_size (s : State) : s.resetRegisters.size = 0#32 := rfl
@[simp] theorem State.resetRegisters_target (s : State) : s.resetRegisters.target = 0#32 := rfl
@[simp] theorem State.resetRegisters_offset (s : State) : s.resetRegisters.offset = 0#32 := rfl
@[simp] theorem State.resetRegisters_vec (s : State) : s.resetRegisters.vec = 0#32 := rfl
@[simp] theorem State.resetRegisters_count (s : State) : s.resetRegisters.count = 0#32 := rfl
@[simp] theorem State.resetRegisters_result (s : State) : s.resetRegisters.result = 0#32 := rfl
@[simp] theorem State.resetRegisters_acc (s : State) : s.resetRegisters.acc = 0#32 := rfl
@[simp] theorem State.resetRegisters_patch (s : State) : s.resetRegisters.patch = 0#32 := rfl
@[simp] theorem State.resetRegisters_baseCrc (s : State) : s.resetRegisters.baseCrc = 0#32 := rfl
@[simp] theorem State.resetRegisters_mat (s : State) : s.resetRegisters.mat = Mat.zero := rfl
@[simp] theorem State.resetRegisters_inv (s : State) : s.resetRegisters.inv = Mat.zero := rfl
@[simp] theorem State.resetRegisters_mem (s : State) : s.resetRegisters.mem = s.mem := rfl
@[simp] theorem State.resetRegisters_cfg (s : State) : s.resetRegisters.cfg = s.cfg := rfl
@[simp] theorem State.resetRegisters_pending (s : State) : s.resetRegisters.pending = s.pending := rfl
@[simp] theorem State.resetRegisters_response (s : State) : s.resetRegisters.response = s.response := rfl

/-! ### `Status` -/

@[simp] theorem Status.succeed_done (st : Status) : st.succeed.done = true := rfl
@[simp] theorem Status.succeed_err (st : Status) : st.succeed.err = none := rfl
@[simp] theorem Status.succeed_errSeen (st : Status) : st.succeed.errSeen = st.errSeen := rfl
@[simp] theorem Status.failWith_done (st : Status) (e : ErrorKind) : (st.failWith e).done = true := rfl
@[simp] theorem Status.failWith_err (st : Status) (e : ErrorKind) : (st.failWith e).err = some e := rfl
@[simp] theorem Status.failWith_errSeen (st : Status) (e : ErrorKind) : (st.failWith e).errSeen = true := rfl

end Sys2Proof.Machine
end

