-- ==== Sys2Proof/Laws/Memory.lean ====
section
/-! SUPPORT. Memory as data: reading after writing, and the canonical form, which every write keeps. -/

namespace Sys2Proof.Machine

theorem Memory.read_erase_self (m : Memory) (a : Nat) : (m.erase a).read a = Memory.unlisted := by
  induction m with
  | nil => rfl
  | cons c m ih =>
    by_cases h : c.1 = a
    · simpa [Memory.erase, h] using ih
    · simpa [Memory.erase, Memory.read, h] using ih

theorem Memory.read_erase_other (m : Memory) {a b : Nat} (h : b ≠ a) :
    (m.erase a).read b = m.read b := by
  induction m with
  | nil => rfl
  | cons c m ih =>
    by_cases hc : c.1 = a
    · simp only [Memory.erase, hc, if_true, Memory.read, if_neg (Ne.symm h), ih]
    · simp only [Memory.erase, hc, if_false, Memory.read, ih]

theorem Memory.read_insert_self (m : Memory) (a : Nat) (v : Byte) (h : m.read a = Memory.unlisted)
    (hm : m.erase a = m) : (m.insert a v).read a = v := by
  induction m with
  | nil => simp [Memory.insert, Memory.read]
  | cons c m ih =>
    have hne : c.1 ≠ a := by
      intro hc
      have := congrArg List.length hm
      have hle : (Memory.erase m a).length ≤ m.length := by
        clear ih h hm this
        induction m with
        | nil => simp [Memory.erase]
        | cons d m ih => simp only [Memory.erase]; split <;> simp <;> omega
      simp [Memory.erase, hc] at this
      omega
    by_cases hlt : a < c.1
    · simp [Memory.insert, hlt, Memory.read]
    · simp only [Memory.erase, hne, if_false, List.cons.injEq, true_and] at hm
      simp only [Memory.read, hne, if_false] at h
      simp [Memory.insert, hlt, Memory.read, hne, ih h hm]

theorem Memory.read_insert_other (m : Memory) {a b : Nat} (v : Byte) (h : b ≠ a) :
    (m.insert a v).read b = m.read b := by
  induction m with
  | nil => simp [Memory.insert, Memory.read, Ne.symm h]
  | cons c m ih =>
    by_cases hlt : a < c.1
    · simp [Memory.insert, hlt, Memory.read, Ne.symm h]
    · simp only [Memory.insert, hlt, if_false, Memory.read, ih]

theorem Memory.erase_erase (m : Memory) (a : Nat) : (m.erase a).erase a = m.erase a := by
  induction m with
  | nil => rfl
  | cons c m ih =>
    by_cases hc : c.1 = a
    · simp only [Memory.erase, hc, if_true, ih]
    · simp only [Memory.erase, hc, if_false, ih]

/-- A read after a write to the same place gives the value written (R60, R63). -/
@[simp] theorem Memory.read_write_self (m : Memory) (a : Nat) (v : Byte) :
    (m.write a v).read a = v := by
  unfold Memory.write
  split
  · rename_i hv
    rw [Memory.read_erase_self, hv]
  · exact Memory.read_insert_self _ a v (Memory.read_erase_self m a) (Memory.erase_erase m a)

/-- A write leaves every other place alone (R63). -/
theorem Memory.read_write_other (m : Memory) {a b : Nat} (v : Byte) (h : b ≠ a) :
    (m.write a v).read b = m.read b := by
  unfold Memory.write
  split
  · exact Memory.read_erase_other m h
  · rw [Memory.read_insert_other _ v h, Memory.read_erase_other m h]

/-- The canonical form as a list: what a cell in front of it says. -/
theorem Memory.wfFrom_cons (c : Host.Cell) (m : Memory) (lo : Nat) :
    Memory.wfFrom (c :: m) lo = true ↔
      lo ≤ c.1 ∧ c.2 ≠ Memory.unlisted ∧ Memory.wfFrom m (c.1 + 1) = true := by
  simp [Memory.wfFrom, and_assoc]

theorem Memory.wfFrom_mono {m : Memory} {lo lo' : Nat} (h : m.wfFrom lo = true) (hle : lo' ≤ lo) :
    m.wfFrom lo' = true := by
  cases m with
  | nil => rfl
  | cons c m =>
    rw [Memory.wfFrom_cons] at h ⊢
    exact ⟨by omega, h.2⟩

theorem Memory.erase_of_wfFrom {m : Memory} {lo a : Nat} (h : m.wfFrom lo = true) (ha : a < lo) :
    m.erase a = m := by
  induction m generalizing lo with
  | nil => rfl
  | cons c m ih =>
    rw [Memory.wfFrom_cons] at h
    rw [Memory.erase, if_neg (by omega), ih h.2.2 (by omega)]

theorem Memory.wfFrom_erase {m : Memory} {lo : Nat} (a : Nat) (h : m.wfFrom lo = true) :
    (m.erase a).wfFrom lo = true := by
  induction m generalizing lo with
  | nil => rfl
  | cons c m ih =>
    rw [Memory.wfFrom_cons] at h
    unfold Memory.erase
    split
    · exact Memory.wfFrom_mono (ih h.2.2) (by omega)
    · rw [Memory.wfFrom_cons]
      exact ⟨h.1, h.2.1, ih h.2.2⟩

theorem Memory.wfFrom_insert {m : Memory} {lo a : Nat} {v : Byte} (h : m.wfFrom lo = true)
    (hlo : lo ≤ a) (hv : v ≠ Memory.unlisted) (hm : m.erase a = m) :
    (m.insert a v).wfFrom lo = true := by
  induction m generalizing lo with
  | nil => simp [Memory.insert, Memory.wfFrom, hlo, hv]
  | cons c m ih =>
    rw [Memory.wfFrom_cons] at h
    have hne : c.1 ≠ a := by
      intro hc
      rw [Memory.erase, if_pos hc, Memory.erase_of_wfFrom h.2.2 (by omega)] at hm
      exact absurd (congrArg List.length hm) (by simp)
    have hm' : Memory.erase m a = m := by
      rw [Memory.erase, if_neg hne] at hm
      exact (List.cons.inj hm).2
    unfold Memory.insert
    split
    · rw [Memory.wfFrom_cons, Memory.wfFrom_cons]
      exact ⟨hlo, hv, by simp only; omega, h.2⟩
    · rw [Memory.wfFrom_cons]
      exact ⟨h.1, h.2.1, ih h.2.2 (by omega) hm'⟩

/-- Every write keeps the canonical form. -/
theorem Memory.wf_write {m : Memory} (a : Nat) (v : Byte) (h : m.wf = true) :
    (m.write a v).wf = true := by
  unfold Memory.write
  split
  · exact Memory.wfFrom_erase a h
  · rename_i hv
    exact Memory.wfFrom_insert (Memory.wfFrom_erase a h) (Nat.zero_le a) hv (Memory.erase_erase m a)

theorem Memory.mem_erase {m : Memory} {a : Nat} {c : Host.Cell} (h : c ∈ m.erase a) : c ∈ m := by
  induction m with
  | nil => exact h
  | cons d m ih =>
    unfold Memory.erase at h
    split at h
    · exact List.mem_cons_of_mem _ (ih h)
    · rcases List.mem_cons.mp h with rfl | h
      · exact List.mem_cons_self
      · exact List.mem_cons_of_mem _ (ih h)

theorem Memory.mem_insert {m : Memory} {a : Nat} {v : Byte} {c : Host.Cell} (h : c ∈ m.insert a v) :
    c = (a, v) ∨ c ∈ m := by
  induction m with
  | nil => simpa [Memory.insert] using h
  | cons d m ih =>
    unfold Memory.insert at h
    split at h
    · simpa using h
    · rcases List.mem_cons.mp h with rfl | h
      · exact .inr List.mem_cons_self
      · exact (ih h).imp_right (List.mem_cons_of_mem _)

/-- A write to an address that exists lists only addresses that exist. -/
theorem Memory.within_write {m : Memory} {c : Config} {a : Nat} (v : Byte) (h : m.within c = true)
    (ha : a < c.memBytes) : (m.write a v).within c = true := by
  simp only [Memory.within, List.all_eq_true, decide_eq_true_eq] at h ⊢
  intro cell hc
  unfold Memory.write at hc
  split at hc
  · exact h cell (Memory.mem_erase hc)
  · rcases Memory.mem_insert hc with rfl | hc
    · exact ha
    · exact h cell (Memory.mem_erase hc)

/-- In the canonical form an address below every listed one reads as an unlisted one. -/
theorem Memory.read_below {m : Memory} {lo a : Nat} (h : m.wfFrom lo = true) (ha : a < lo) :
    m.read a = Memory.unlisted := by
  induction m generalizing lo with
  | nil => rfl
  | cons c m ih =>
    rw [Memory.wfFrom_cons] at h
    rw [Memory.read, if_neg (by omega), ih h.2.2 (by omega)]

/-- Canonical memories that read alike are equal: equal contents are equal data. -/
theorem Memory.eq_of_read_eq {m m' : Memory} {lo : Nat} (h : m.wfFrom lo = true)
    (h' : m'.wfFrom lo = true) (hr : ∀ a, m.read a = m'.read a) : m = m' := by
  induction m generalizing m' lo with
  | nil =>
    cases m' with
    | nil => rfl
    | cons d m' =>
      rw [Memory.wfFrom_cons] at h'
      exact absurd (by simpa [Memory.read] using (hr d.1).symm) h'.2.1
  | cons c m ih =>
    cases m' with
    | nil =>
      rw [Memory.wfFrom_cons] at h
      exact absurd (by simpa [Memory.read] using hr c.1) h.2.1
    | cons d m' =>
      rw [Memory.wfFrom_cons] at h h'
      have hcd : c.1 = d.1 := by
        rcases Nat.lt_trichotomy c.1 d.1 with hlt | heq | hgt
        · have := hr c.1
          rw [Memory.read, if_pos rfl, Memory.read, if_neg (by omega),
            Memory.read_below h'.2.2 (by omega)] at this
          exact absurd this h.2.1
        · exact heq
        · have := hr d.1
          rw [Memory.read, if_neg (by omega), Memory.read, if_pos rfl,
            Memory.read_below h.2.2 (by omega)] at this
          exact absurd this.symm h'.2.1
      have hv : c.2 = d.2 := by
        have := hr c.1
        rwa [Memory.read, if_pos rfl, Memory.read, if_pos hcd.symm] at this
      have htail : m = m' := by
        refine ih h.2.2 (by rw [hcd]; exact h'.2.2) fun a => ?_
        by_cases ha : a ≤ c.1
        · rw [Memory.read_below h.2.2 (by omega), Memory.read_below h'.2.2 (by omega)]
        · have := hr a
          rwa [Memory.read, if_neg (by omega), Memory.read, if_neg (by omega)] at this
      rw [htail, Prod.ext hcd hv]

end Sys2Proof.Machine
end

