-- ==== Sys2Proof/Laws/Ops.lean ====
section
/-! SUPPORT. What the shared operations can do, said once for each: the access primitives, the CRC
pass, and the stages of the compensator. -/

namespace Sys2Proof.Machine

/-! ### The access primitives (R62 to R64) -/

theorem State.memRead_of_lt {s : State} {a : Nat} (h : a < s.cfg.memBytes) :
    s.memRead a = some (s.mem.read a) := if_pos h

theorem State.memRead_of_ge {s : State} {a : Nat} (h : s.cfg.memBytes ≤ a) : s.memRead a = none :=
  if_neg (by omega)

theorem State.memWrite_of_lt {s : State} {a : Nat} (v : Byte) (h : a < s.cfg.memBytes) :
    s.memWrite a v = some (s.putMem (s.mem.write a v)) := if_pos h

theorem State.memWrite_of_ge {s : State} {a : Nat} (v : Byte) (h : s.cfg.memBytes ≤ a) :
    s.memWrite a v = none := if_neg (by omega)

/-- A byte write is inside memory and changes nothing but memory. -/
theorem State.memWrite_cases {s t : State} {a : Nat} {v : Byte} (h : s.memWrite a v = some t) :
    a < s.cfg.memBytes ∧ t = s.putMem (s.mem.write a v) := by
  unfold State.memWrite at h
  split at h
  · exact ⟨‹_›, (Option.some.inj h).symm⟩
  · cases h

@[simp] theorem State.putMem_putMem (s : State) (m m' : Memory) :
    (s.putMem m).putMem m' = s.putMem m' := rfl

/-- `m` with bytes written to rising addresses from `a` on: the memory `memWriteBytes` leaves. -/
def Memory.writeBytes (m : Memory) (a : Nat) : List Byte → Memory
  | [] => m
  | b :: bs => Memory.writeBytes (m.write a b) (a + 1) bs

theorem State.memWriteBytes_of_le {s : State} {a : Nat} {bs : List Byte}
    (h : a + bs.length ≤ s.cfg.memBytes) :
    s.memWriteBytes a bs = some (s.putMem (s.mem.writeBytes a bs)) := by
  induction bs generalizing s a with
  | nil => rfl
  | cons b bs ih =>
    simp only [List.length_cons] at h
    rw [State.memWriteBytes, State.memWrite_of_lt b (by omega)]
    simp only
    rw [ih (by simpa using (by omega : a + 1 + bs.length ≤ s.cfg.memBytes))]
    rfl

/-- The four byte writes of R64 land exactly when all four addresses exist. -/
theorem State.memWrite4_of_lt {s : State} {a : Nat} (v : Word) (h : a + 3 < s.cfg.memBytes) :
    s.memWrite4 a v = some (s.putMem (s.mem.writeBytes a (le4 v))) :=
  State.memWriteBytes_of_le (by simp [le4]; omega)

theorem Memory.read_writeBytes_outside {bs : List Byte} {m : Memory} {a b : Nat}
    (h : b < a ∨ a + bs.length ≤ b) : (m.writeBytes a bs).read b = m.read b := by
  induction bs generalizing m a with
  | nil => rfl
  | cons c bs ih =>
    simp only [List.length_cons] at h
    rw [Memory.writeBytes, ih (by omega), Memory.read_write_other _ _ (by omega)]

theorem Memory.read_writeBytes_inside {bs : List Byte} {m : Memory} {a k : Nat} (h : k < bs.length) :
    (m.writeBytes a bs).read (a + k) = bs[k] := by
  induction bs generalizing m a k with
  | nil => simp at h
  | cons c bs ih =>
    rw [Memory.writeBytes]
    cases k with
    | zero =>
      rw [Memory.read_writeBytes_outside (by omega)]
      simp
    | succ k =>
      have := ih (m := m.write a c) (a := a + 1) (k := k) (by simpa using h)
      rw [show a + (k + 1) = a + 1 + k by omega, this]
      simp

theorem Memory.wf_writeBytes {bs : List Byte} {m : Memory} (a : Nat) (h : m.wf = true) :
    (m.writeBytes a bs).wf = true := by
  induction bs generalizing m a with
  | nil => exact h
  | cons b bs ih => exact ih _ (Memory.wf_write a b h)

theorem Memory.within_writeBytes {bs : List Byte} {m : Memory} {c : Config} {a : Nat}
    (h : m.within c = true) (ha : a + bs.length ≤ c.memBytes) : (m.writeBytes a bs).within c = true := by
  induction bs generalizing m a with
  | nil => exact h
  | cons b bs ih =>
    simp only [List.length_cons] at ha
    exact ih (Memory.within_write b h (by omega)) (by omega)

/-! ### The CRC pass (R103, R110, R162) -/

@[simp] theorem raw_nil (acc : Word) : raw acc [] = acc := rfl

@[simp] theorem raw_cons (acc : Word) (b : Byte) (bs : List Byte) :
    raw acc (b :: bs) = raw (upd acc b) bs := by simp [raw]

@[simp] theorem zAdv_zero (acc : Word) : zAdv acc 0 = acc := rfl

@[simp] theorem zAdv_succ (acc : Word) (n : Nat) : zAdv acc (n + 1) = zAdv (upd acc 0#8) n := by
  simp [zAdv]

/-- A pass whose every read is of an existing address is `Raw` over the bytes read, in order. -/
theorem crcPass_eq_raw {rd : Nat → Option Byte} {f : Nat → Byte} {k n : Nat} {acc : Word}
    (h : ∀ i, i < n → rd (k + i) = some (f (k + i))) :
    crcPass rd k n acc = some (raw acc ((List.range n).map fun i => f (k + i))) := by
  induction n generalizing k acc with
  | zero => rfl
  | succ n ih =>
    have h0 : rd k = some (f k) := h 0 (by omega)
    simp only [crcPass, h0, Word.strict_eq, List.range_succ_eq_map, List.map_cons, List.map_map,
      Nat.add_zero, raw_cons]
    rw [ih (k := k + 1) fun i hi => by
      have := h (i + 1) (by omega)
      rwa [show k + (i + 1) = k + 1 + i by omega] at this]
    congr 2
    apply List.map_congr_left
    intro i _
    simp only [Function.comp, Nat.succ_eq_add_one]
    congr 1
    omega

theorem State.bufferInRange_iff {s : State} :
    s.bufferInRange = true ↔ s.addr.toNat + s.size.toNat ≤ s.cfg.memBytes := by
  rw [State.bufferInRange, decide_eq_true_eq]

theorem State.patchInBuffer_iff {s : State} {off : Nat} :
    s.patchInBuffer off = true ↔ off + 4 ≤ s.size.toNat := by
  rw [State.patchInBuffer, decide_eq_true_eq]

theorem State.readAt_of_inRange {s : State} (h : s.bufferInRange = true) {k : Nat}
    (hk : k < s.size.toNat) : s.readAt k = some (s.mem.read (s.addr.toNat + k)) := by
  simp only [State.bufferInRange, decide_eq_true_eq] at h
  exact State.memRead_of_lt (by omega)

/-- The pass of `crc` and of the verification step, over a buffer inside memory. -/
theorem State.pass_readAt {s : State} (h : s.bufferInRange = true) :
    crcPass s.readAt 0 s.size.toNat crcInit = some (raw crcInit s.bufferBytes) := by
  rw [crcPass_eq_raw (f := fun k => s.mem.read (s.addr.toNat + k))]
  · simp [State.bufferBytes]
  · intro i hi
    rw [Nat.zero_add]
    exact State.readAt_of_inRange h hi

/-- The base pass over a buffer inside memory (R162). -/
theorem State.pass_readZeroing {s : State} (off : Nat) (h : s.bufferInRange = true) :
    crcPass (s.readZeroing off) 0 s.size.toNat crcInit = some (raw crcInit (s.baseBytes off)) := by
  rw [crcPass_eq_raw
    (f := fun k => if off ≤ k ∧ k < off + 4 then 0#8 else s.mem.read (s.addr.toNat + k))]
  · simp [State.baseBytes]
  · intro i hi
    rw [Nat.zero_add, State.readZeroing]
    split
    · rfl
    · exact State.readAt_of_inRange h hi

/-! ### The compensator (R163) -/

/-- Step 8 on a buffer inside memory: the pass is `Crc32` of the buffer, and the comparison with the
target decides how the command ends. -/
theorem verifyPatch_eq {s : State} (h : s.bufferInRange = true) :
    verifyPatch s =
      if crc32 s.bufferBytes = s.target then
        .next (s.putAccResult (raw crcInit s.bufferBytes) (crc32 s.bufferBytes)).complete
      else
        .next ((s.putAccResult (raw crcInit s.bufferBytes) (crc32 s.bufferBytes)).raise .internal) := by
  rw [verifyPatch, State.pass_readAt h]
  rfl

/-- Steps 4, 6 and 7 with the patch field inside memory. -/
theorem writePatch_eq {s : State} {off : Nat} (h : s.addr.toNat + off + 3 < s.cfg.memBytes) :
    writePatch off s =
      verifyPatch ((s.putPatch (mulVec s.inv (s.target ^^^ s.baseCrc))).putMem
        (s.mem.writeBytes (s.addr.toNat + off) (le4 (mulVec s.inv (s.target ^^^ s.baseCrc))))) := by
  have h4 := State.memWrite4_of_lt (s := s.putPatch (mulVec s.inv (s.target ^^^ s.baseCrc)))
    (mulVec s.inv (s.target ^^^ s.baseCrc)) h
  simp only [writePatch, State.putPatch_addr, State.putPatch_patch, h4, State.putPatch_mem]

/-- Steps 1 to 3 on a buffer inside memory. -/
theorem basePass_eq {s : State} (off : Nat) (h : s.bufferInRange = true) :
    basePass off s =
      solveMatrix off ((s.putAccBase (raw crcInit (s.baseBytes off)) (crc32 (s.baseBytes off))).putMat
        (mBuild (s.trailing off))) := by
  rw [basePass, State.pass_readZeroing off h]
  rfl

/-- The state `comp` has when the matrix is built: steps 1 to 3 done. -/
def State.afterBase (s : State) (off : Nat) : State :=
  (s.putAccBase (raw crcInit (s.baseBytes off)) (crc32 (s.baseBytes off))).putMat
    (mBuild (s.trailing off))

/-- The state when the patch is in memory: steps 1 to 7 done, with inverse `b`. -/
def State.afterWrite (s : State) (off : Nat) (b : Mat) : State :=
  let s1 := ((s.afterBase off).putInv b).putPatch (mulVec b (s.target ^^^ crc32 (s.baseBytes off)))
  s1.putMem (s.mem.writeBytes (s.addr.toNat + off) (le4 s1.patch))

/-- The state when the buffer has been read back: step 8 done but for `STATUS`. -/
def State.afterVerify (s : State) (off : Nat) (b : Mat) : State :=
  let s2 := s.afterWrite off b
  s2.putAccResult (raw crcInit s2.bufferBytes) (crc32 s2.bufferBytes)

theorem State.afterBase_mat (s : State) (off : Nat) :
    (s.afterBase off).mat = mBuild (s.trailing off) := rfl

theorem State.afterBase_addr (s : State) (off : Nat) : (s.afterBase off).addr = s.addr := rfl

theorem State.afterBase_cfg (s : State) (off : Nat) : (s.afterBase off).cfg = s.cfg := rfl

theorem State.afterWrite_eq (s : State) (off : Nat) (b : Mat) :
    s.afterWrite off b =
      (((s.afterBase off).putInv b).putPatch
        (mulVec ((s.afterBase off).putInv b).inv
          (((s.afterBase off).putInv b).target ^^^ ((s.afterBase off).putInv b).baseCrc))).putMem
        (((s.afterBase off).putInv b).mem.writeBytes (((s.afterBase off).putInv b).addr.toNat + off)
          (le4 (mulVec ((s.afterBase off).putInv b).inv
            (((s.afterBase off).putInv b).target ^^^ ((s.afterBase off).putInv b).baseCrc)))) := rfl

theorem State.afterWrite_addr (s : State) (off : Nat) (b : Mat) :
    (s.afterWrite off b).addr = s.addr := rfl

theorem State.afterWrite_size (s : State) (off : Nat) (b : Mat) :
    (s.afterWrite off b).size = s.size := rfl

theorem State.afterWrite_cfg (s : State) (off : Nat) (b : Mat) :
    (s.afterWrite off b).cfg = s.cfg := rfl

theorem State.afterWrite_target (s : State) (off : Nat) (b : Mat) :
    (s.afterWrite off b).target = s.target := rfl

theorem State.afterVerify_eq (s : State) (off : Nat) (b : Mat) :
    s.afterVerify off b =
      (s.afterWrite off b).putAccResult (raw crcInit (s.afterWrite off b).bufferBytes)
        (crc32 (s.afterWrite off b).bufferBytes) := rfl

theorem State.afterVerify_result (s : State) (off : Nat) (b : Mat) :
    (s.afterVerify off b).result = crc32 (s.afterWrite off b).bufferBytes := rfl

/-- Everything `comp` at the effective offset `off` can do, each outcome with its condition: the rows
of R165.  It never faults (R61). -/
theorem compensateAt_cases (off : Nat) (s : State) :
    (s.size.toNat < off + 4 ∧ compensateAt off s = .next (s.raise .invalidOffset)) ∨
    (off + 4 ≤ s.size.toNat ∧ s.cfg.memBytes < s.addr.toNat + s.size.toNat ∧
      compensateAt off s = .next (s.raise .addrRange)) ∨
    (off + 4 ≤ s.size.toNat ∧ s.addr.toNat + s.size.toNat ≤ s.cfg.memBytes ∧
      ((gf2Invert (mBuild (s.trailing off)) = none ∧
          compensateAt off s = .next ((s.afterBase off).raise .unsolvable)) ∨
       ∃ b, gf2Invert (mBuild (s.trailing off)) = some b ∧
         (((s.afterVerify off b).result = s.target ∧
            compensateAt off s = .next (s.afterVerify off b).complete) ∨
          ((s.afterVerify off b).result ≠ s.target ∧
            compensateAt off s = .next ((s.afterVerify off b).raise .internal))))) := by
  by_cases hoff : off + 4 ≤ s.size.toNat
  swap
  · exact .inl ⟨by omega, by rw [compensateAt, if_neg (mt State.patchInBuffer_iff.mp hoff)]⟩
  by_cases hrange : s.addr.toNat + s.size.toNat ≤ s.cfg.memBytes
  swap
  · exact .inr (.inl ⟨hoff, by omega, by
      rw [compensateAt, if_pos (State.patchInBuffer_iff.mpr hoff),
        if_neg (mt State.bufferInRange_iff.mp hrange)]⟩)
  refine .inr (.inr ⟨hoff, hrange, ?_⟩)
  have hin : s.bufferInRange = true := State.bufferInRange_iff.mpr hrange
  have hbase : compensateAt off s = solveMatrix off (s.afterBase off) := by
    rw [compensateAt, if_pos (State.patchInBuffer_iff.mpr hoff), if_pos hin,
      basePass_eq off hin]
    rfl
  rw [hbase, solveMatrix]
  simp only [State.afterBase_mat]
  cases hb : gf2Invert (mBuild (s.trailing off)) with
  | none => exact .inl ⟨rfl, rfl⟩
  | some b =>
    refine .inr ⟨b, rfl, ?_⟩
    have hin' : (s.afterWrite off b).bufferInRange = true := by
      rw [State.bufferInRange_iff, State.afterWrite_addr, State.afterWrite_size, State.afterWrite_cfg]
      exact hrange
    simp only
    rw [writePatch_eq (by
        simp only [State.putInv_addr, State.putInv_cfg, State.afterBase_addr, State.afterBase_cfg]
        omega),
      ← State.afterWrite_eq, verifyPatch_eq hin', State.afterVerify_result, State.afterWrite_target]
    by_cases hres : crc32 (s.afterWrite off b).bufferBytes = s.target
    · exact .inl ⟨hres, by rw [if_pos hres, State.afterVerify_eq]⟩
    · exact .inr ⟨hres, by rw [if_neg hres, State.afterVerify_eq]⟩

end Sys2Proof.Machine
end

