-- ==== Sys2Proof/Laws/PerInstr.lean ====
section
/-! SUPPORT. Per-instruction statements about the commands as syntax, one lemma per constructor. -/

namespace Sys2Proof.Laws

/-- The command's word is legal, and the decoder reads the command back from it (R82, R85, R88). -/
def RoundTrip.Statement (i : Instr) : Prop :=
  legalCommandWord (encode i) = true ∧ decode (encode i) = .ok i

theorem RoundTrip.nop : RoundTrip.Statement .nop := by unfold RoundTrip.Statement; decide

theorem RoundTrip.crc : RoundTrip.Statement .crc := by unfold RoundTrip.Statement; decide

theorem RoundTrip.zadv : RoundTrip.Statement .zadv := by unfold RoundTrip.Statement; decide

theorem RoundTrip.mbuild : RoundTrip.Statement .mbuild := by unfold RoundTrip.Statement; decide

theorem RoundTrip.minv : RoundTrip.Statement .minv := by unfold RoundTrip.Statement; decide

theorem RoundTrip.mvmul : RoundTrip.Statement .mvmul := by unfold RoundTrip.Statement; decide

theorem RoundTrip.mvmulM : RoundTrip.Statement .mvmulM := by unfold RoundTrip.Statement; decide

theorem RoundTrip.comp : RoundTrip.Statement .comp := by unfold RoundTrip.Statement; decide

theorem RoundTrip.compT : RoundTrip.Statement .compT := by unfold RoundTrip.Statement; decide

end Sys2Proof.Laws
end

