-- ==== Sys2Proof/Laws/Step.lean ====
section
/-! SUPPORT. What one step can do: the host action it takes, and what each command can do. -/

namespace Sys2Proof.Machine

theorem step_of_nil {s : State} (h : s.pending = []) : step s = .next s := by
  simp only [step, nextAction, h]

theorem step_of_cons {s : State} {a : HostAction} {rest : List HostAction}
    (h : s.pending = a :: rest) : step s = hostAct a (s.takeAction rest) := by
  simp only [step, nextAction, h]

theorem regAt_cmdIndex : regAt cmdIndex = .cmd := by decide

theorem step_of_cmd {s : State} {w : Word} {rest : List HostAction}
    (h : s.pending = .regWrite cmdIndex w :: rest) : step s = runCommand w (s.takeAction rest) := by
  rw [step_of_cons h, hostAct, regAt_cmdIndex, regStore]

theorem runCommand_of_ok {w : Word} {i : Instr} (s : State) (h : decode w = .ok i) :
    runCommand w s = exec i (s.putCmd w) := by
  simp only [runCommand, h]

theorem runCommand_of_error {w : Word} {e : DecodeError} (s : State) (h : decode w = .error e) :
    runCommand w s = .next ((s.putCmd w).raise .illegalCommand) := by
  simp only [runCommand, h, execIllegal]

/-- The command trigger runs a command, or ends with `IllegalCommand` (R194). -/
theorem runCommand_cases (w : Word) (s : State) :
    (∃ i, decode w = .ok i ∧ runCommand w s = exec i (s.putCmd w)) ∨
      runCommand w s = .next ((s.putCmd w).raise .illegalCommand) := by
  cases h : decode w with
  | ok i => exact .inl ⟨i, rfl, runCommand_of_ok s h⟩
  | error e => exact .inr (runCommand_of_error s h)

/-- `crc` succeeds on a buffer inside memory (R110), and ends with `AddrRange` on any other (R61). -/
theorem execCrc_cases (s : State) :
    (s.addr.toNat + s.size.toNat ≤ s.cfg.memBytes ∧
      execCrc s =
        .next (s.putAccResult (raw crcInit s.bufferBytes) (crc32 s.bufferBytes)).complete) ∨
    (s.cfg.memBytes < s.addr.toNat + s.size.toNat ∧ execCrc s = .next (s.raise .addrRange)) := by
  by_cases h : s.bufferInRange = true
  · refine .inl ⟨State.bufferInRange_iff.mp h, ?_⟩
    rw [execCrc, if_pos h, State.pass_readAt h]
    rfl
  · refine .inr ⟨?_, by rw [execCrc, if_neg h]⟩
    rw [State.bufferInRange_iff] at h
    omega

/-- `minv` commits the inverse, or ends with `Unsolvable` (R142). -/
theorem execMinv_cases (s : State) :
    (∃ b, gf2Invert s.mat = some b ∧ execMinv s = .next (s.putInv b).complete) ∨
      (gf2Invert s.mat = none ∧ execMinv s = .next (s.raise .unsolvable)) := by
  cases h : gf2Invert s.mat with
  | none => exact .inr ⟨rfl, by simp only [execMinv, h]⟩
  | some b => exact .inl ⟨b, rfl, by simp only [execMinv, h]⟩

/-- `comp.t` is `comp` at `SIZE - 4`, and ends with `InvalidOffset` on a buffer of fewer than 4 bytes
(R164). -/
theorem execCompT_eq (s : State) : execCompT s = compensateAt (s.size.toNat - 4) s := by
  by_cases h : s.size.toNat < 4
  · have hno : ¬ s.patchInBuffer (s.size.toNat - 4) = true := by
      rw [State.patchInBuffer_iff]
      omega
    rw [execCompT, State.tailOffset, if_pos h, compensateAt, if_neg hno]
  · rw [execCompT, State.tailOffset, if_neg h]

end Sys2Proof.Machine
end

