-- ==== Sys2Proof/Tests/Slice0.lean ====
section
/-! SUPPORT. The model's own tests.  Expected values are the spec's: the words of R82, the table of
R101, and the vectors of 95_test_vectors.md, whose name stands in each docstring.  The second part
has, for each statement with hypotheses, a state and operands that meet them. -/

namespace Sys2Proof.Tests

open Sys2Proof Sys2Proof.Machine

/-! ### Helpers -/

/-- The outcome is a next state with the property `p`. -/
def nextHas (o : Host.Outcome State Fault Refusal) (p : State → Bool) : Bool :=
  match o with
  | .next t => p t
  | .fault _ => false
  | .refused _ => false

theorem nextHas_elim {o : Host.Outcome State Fault Refusal} {p : State → Bool}
    (h : nextHas o p = true) : ∃ t, o = .next t ∧ p t = true := by
  cases o with
  | next t => exact ⟨t, rfl, h⟩
  | fault f => cases h
  | refused r => cases h

/-- Memory with some bytes from an address on. -/
def memOf (a : Nat) (bs : List Byte) : Memory := Memory.writeBytes [] a bs

/-- After power-on with `MEM_BYTES` = 0x10000, as in every vector of the spec. -/
def start (m : Memory) : State := State.powerOn ⟨0x0000FFFF#32⟩ m

/-- The 14 bytes of "Hello, World!" and a line feed. -/
def hello : List Byte :=
  [0x48#8, 0x65#8, 0x6C#8, 0x6C#8, 0x6F#8, 0x2C#8, 0x20#8, 0x57#8, 0x6F#8, 0x72#8, 0x6C#8, 0x64#8,
   0x21#8, 0x0A#8]

/-- The state before the command of V41. -/
def startV41 : State :=
  { start (memOf 0x31 [0x11#8, 0x22#8, 0x33#8, 0x44#8, 0x55#8, 0x66#8, 0x77#8, 0x88#8]) with
    addr := 0x31#32, size := 8#32, offset := 2#32, target := 0xCAFEBABE#32 }

/-- Four bytes FF at the very end of memory, their present CRC the target. -/
def startTail : State :=
  { start (memOf 0xFFFC [0xFF#8, 0xFF#8, 0xFF#8, 0xFF#8]) with
    addr := 0xFFFC#32, size := 4#32, offset := 0x77777777#32, target := 0xFFFFFFFF#32 }

/-- The buffer of P1. -/
def startHello : State := { start (memOf 0x100 hello) with addr := 0x100#32, size := 14#32 }

/-- A `STATUS` after an illegal word: 0x00000141. -/
def statusIllegal : Status := ⟨true, some .illegalCommand, true⟩

/-! ### Decoding: the words of R82 written out bit by bit (fields `Z1`, `M`, `T`, `Z0`, `OPC`) -/

theorem test_decode_nop : decode (0b0000000000000000000000#22 ++ 0b0#1 ++ 0b0#1 ++ 0b0000#4 ++ 0b0000#4) = .ok .nop := by
  decide

theorem test_decode_crc : decode (0b0000000000000000000000#22 ++ 0b0#1 ++ 0b0#1 ++ 0b0000#4 ++ 0b0001#4) = .ok .crc := by
  decide

theorem test_decode_zadv : decode (0b0000000000000000000000#22 ++ 0b0#1 ++ 0b0#1 ++ 0b0000#4 ++ 0b0010#4) = .ok .zadv := by
  decide

theorem test_decode_mbuild : decode (0b0000000000000000000000#22 ++ 0b0#1 ++ 0b0#1 ++ 0b0000#4 ++ 0b0011#4) = .ok .mbuild := by
  decide

theorem test_decode_minv : decode (0b0000000000000000000000#22 ++ 0b0#1 ++ 0b0#1 ++ 0b0000#4 ++ 0b0100#4) = .ok .minv := by
  decide

theorem test_decode_mvmul : decode (0b0000000000000000000000#22 ++ 0b0#1 ++ 0b0#1 ++ 0b0000#4 ++ 0b0101#4) = .ok .mvmul := by
  decide

theorem test_decode_mvmulM : decode (0b0000000000000000000000#22 ++ 0b1#1 ++ 0b0#1 ++ 0b0000#4 ++ 0b0101#4) = .ok .mvmulM := by
  decide

theorem test_decode_comp : decode (0b0000000000000000000000#22 ++ 0b0#1 ++ 0b0#1 ++ 0b0000#4 ++ 0b0110#4) = .ok .comp := by
  decide

theorem test_decode_compT : decode (0b0000000000000000000000#22 ++ 0b0#1 ++ 0b1#1 ++ 0b0000#4 ++ 0b0110#4) = .ok .compT := by
  decide

/-- The decoder as the host asks for it: the table's words, and none for a word of a reserved
field. -/
theorem test_decodeTableWord :
    decodeTableWord 32 0x205 = some .mvmulM ∧ decodeTableWord 32 0x106 = some .compT ∧
      decodeTableWord 32 0x10006 = none := by decide

/-! ### Ill-formed words: one for each check of `legalCommandWord`, refused by it and by the decoder -/

theorem test_wf_reservedZ0 :
    reservedBitsClear 0x00000010#32 = false ∧ legalCommandWord 0x00000010#32 = false ∧
      decode 0x00000010#32 = .error .reservedZ0 := by decide

theorem test_wf_reservedZ1 :
    reservedBitsClear 0x00010006#32 = false ∧ legalCommandWord 0x00010006#32 = false ∧
      decode 0x00010006#32 = .error .reservedZ1 := by decide

theorem test_wf_opcode :
    opcodeAssigned 0x00000007#32 = false ∧ legalCommandWord 0x00000007#32 = false ∧
      decode 0x00000007#32 = .error .unassignedOpcode := by decide

theorem test_wf_tailFlag :
    tailFlagLegal 0x00000101#32 = false ∧ legalCommandWord 0x00000101#32 = false ∧
      decode 0x00000101#32 = .error .tailFlagMisplaced := by decide

theorem test_wf_matFlag :
    matFlagLegal 0x00000206#32 = false ∧ legalCommandWord 0x00000206#32 = false ∧
      decode 0x00000206#32 = .error .matFlagMisplaced := by decide

/-- Every illegal word of 2.4 of the vectors. -/
theorem test_illegal_words :
    [0x00000007#32, 0x00000008#32, 0x0000000F#32, 0x00000010#32, 0x00000080#32, 0x00000100#32,
     0x00000101#32, 0x00000102#32, 0x00000103#32, 0x00000104#32, 0x00000105#32, 0x00000200#32,
     0x00000201#32, 0x00000206#32, 0x00000305#32, 0x00000306#32, 0x00000400#32, 0x00010006#32,
     0x80000000#32, 0xFFFFFFFF#32].all (fun w => !legalCommandWord w) = true := by decide

/-! ### The lookup table: the 256 values of R101 -/

def table0 : List Word :=
  [0x00000000#32, 0x77073096#32, 0xEE0E612C#32, 0x990951BA#32, 0x076DC419#32, 0x706AF48F#32,
   0xE963A535#32, 0x9E6495A3#32, 0x0EDB8832#32, 0x79DCB8A4#32, 0xE0D5E91E#32, 0x97D2D988#32,
   0x09B64C2B#32, 0x7EB17CBD#32, 0xE7B82D07#32, 0x90BF1D91#32, 0x1DB71064#32, 0x6AB020F2#32,
   0xF3B97148#32, 0x84BE41DE#32, 0x1ADAD47D#32, 0x6DDDE4EB#32, 0xF4D4B551#32, 0x83D385C7#32,
   0x136C9856#32, 0x646BA8C0#32, 0xFD62F97A#32, 0x8A65C9EC#32, 0x14015C4F#32, 0x63066CD9#32,
   0xFA0F3D63#32, 0x8D080DF5#32]

def table1 : List Word :=
  [0x3B6E20C8#32, 0x4C69105E#32, 0xD56041E4#32, 0xA2677172#32, 0x3C03E4D1#32, 0x4B04D447#32,
   0xD20D85FD#32, 0xA50AB56B#32, 0x35B5A8FA#32, 0x42B2986C#32, 0xDBBBC9D6#32, 0xACBCF940#32,
   0x32D86CE3#32, 0x45DF5C75#32, 0xDCD60DCF#32, 0xABD13D59#32, 0x26D930AC#32, 0x51DE003A#32,
   0xC8D75180#32, 0xBFD06116#32, 0x21B4F4B5#32, 0x56B3C423#32, 0xCFBA9599#32, 0xB8BDA50F#32,
   0x2802B89E#32, 0x5F058808#32, 0xC60CD9B2#32, 0xB10BE924#32, 0x2F6F7C87#32, 0x58684C11#32,
   0xC1611DAB#32, 0xB6662D3D#32]

def table2 : List Word :=
  [0x76DC4190#32, 0x01DB7106#32, 0x98D220BC#32, 0xEFD5102A#32, 0x71B18589#32, 0x06B6B51F#32,
   0x9FBFE4A5#32, 0xE8B8D433#32, 0x7807C9A2#32, 0x0F00F934#32, 0x9609A88E#32, 0xE10E9818#32,
   0x7F6A0DBB#32, 0x086D3D2D#32, 0x91646C97#32, 0xE6635C01#32, 0x6B6B51F4#32, 0x1C6C6162#32,
   0x856530D8#32, 0xF262004E#32, 0x6C0695ED#32, 0x1B01A57B#32, 0x8208F4C1#32, 0xF50FC457#32,
   0x65B0D9C6#32, 0x12B7E950#32, 0x8BBEB8EA#32, 0xFCB9887C#32, 0x62DD1DDF#32, 0x15DA2D49#32,
   0x8CD37CF3#32, 0xFBD44C65#32]

def table3 : List Word :=
  [0x4DB26158#32, 0x3AB551CE#32, 0xA3BC0074#32, 0xD4BB30E2#32, 0x4ADFA541#32, 0x3DD895D7#32,
   0xA4D1C46D#32, 0xD3D6F4FB#32, 0x4369E96A#32, 0x346ED9FC#32, 0xAD678846#32, 0xDA60B8D0#32,
   0x44042D73#32, 0x33031DE5#32, 0xAA0A4C5F#32, 0xDD0D7CC9#32, 0x5005713C#32, 0x270241AA#32,
   0xBE0B1010#32, 0xC90C2086#32, 0x5768B525#32, 0x206F85B3#32, 0xB966D409#32, 0xCE61E49F#32,
   0x5EDEF90E#32, 0x29D9C998#32, 0xB0D09822#32, 0xC7D7A8B4#32, 0x59B33D17#32, 0x2EB40D81#32,
   0xB7BD5C3B#32, 0xC0BA6CAD#32]

def table4 : List Word :=
  [0xEDB88320#32, 0x9ABFB3B6#32, 0x03B6E20C#32, 0x74B1D29A#32, 0xEAD54739#32, 0x9DD277AF#32,
   0x04DB2615#32, 0x73DC1683#32, 0xE3630B12#32, 0x94643B84#32, 0x0D6D6A3E#32, 0x7A6A5AA8#32,
   0xE40ECF0B#32, 0x9309FF9D#32, 0x0A00AE27#32, 0x7D079EB1#32, 0xF00F9344#32, 0x8708A3D2#32,
   0x1E01F268#32, 0x6906C2FE#32, 0xF762575D#32, 0x806567CB#32, 0x196C3671#32, 0x6E6B06E7#32,
   0xFED41B76#32, 0x89D32BE0#32, 0x10DA7A5A#32, 0x67DD4ACC#32, 0xF9B9DF6F#32, 0x8EBEEFF9#32,
   0x17B7BE43#32, 0x60B08ED5#32]

def table5 : List Word :=
  [0xD6D6A3E8#32, 0xA1D1937E#32, 0x38D8C2C4#32, 0x4FDFF252#32, 0xD1BB67F1#32, 0xA6BC5767#32,
   0x3FB506DD#32, 0x48B2364B#32, 0xD80D2BDA#32, 0xAF0A1B4C#32, 0x36034AF6#32, 0x41047A60#32,
   0xDF60EFC3#32, 0xA867DF55#32, 0x316E8EEF#32, 0x4669BE79#32, 0xCB61B38C#32, 0xBC66831A#32,
   0x256FD2A0#32, 0x5268E236#32, 0xCC0C7795#32, 0xBB0B4703#32, 0x220216B9#32, 0x5505262F#32,
   0xC5BA3BBE#32, 0xB2BD0B28#32, 0x2BB45A92#32, 0x5CB36A04#32, 0xC2D7FFA7#32, 0xB5D0CF31#32,
   0x2CD99E8B#32, 0x5BDEAE1D#32]

def table6 : List Word :=
  [0x9B64C2B0#32, 0xEC63F226#32, 0x756AA39C#32, 0x026D930A#32, 0x9C0906A9#32, 0xEB0E363F#32,
   0x72076785#32, 0x05005713#32, 0x95BF4A82#32, 0xE2B87A14#32, 0x7BB12BAE#32, 0x0CB61B38#32,
   0x92D28E9B#32, 0xE5D5BE0D#32, 0x7CDCEFB7#32, 0x0BDBDF21#32, 0x86D3D2D4#32, 0xF1D4E242#32,
   0x68DDB3F8#32, 0x1FDA836E#32, 0x81BE16CD#32, 0xF6B9265B#32, 0x6FB077E1#32, 0x18B74777#32,
   0x88085AE6#32, 0xFF0F6A70#32, 0x66063BCA#32, 0x11010B5C#32, 0x8F659EFF#32, 0xF862AE69#32,
   0x616BFFD3#32, 0x166CCF45#32]

def table7 : List Word :=
  [0xA00AE278#32, 0xD70DD2EE#32, 0x4E048354#32, 0x3903B3C2#32, 0xA7672661#32, 0xD06016F7#32,
   0x4969474D#32, 0x3E6E77DB#32, 0xAED16A4A#32, 0xD9D65ADC#32, 0x40DF0B66#32, 0x37D83BF0#32,
   0xA9BCAE53#32, 0xDEBB9EC5#32, 0x47B2CF7F#32, 0x30B5FFE9#32, 0xBDBDF21C#32, 0xCABAC28A#32,
   0x53B39330#32, 0x24B4A3A6#32, 0xBAD03605#32, 0xCDD70693#32, 0x54DE5729#32, 0x23D967BF#32,
   0xB3667A2E#32, 0xC4614AB8#32, 0x5D681B02#32, 0x2A6F2B94#32, 0xB40BBE37#32, 0xC30C8EA1#32,
   0x5A05DF1B#32, 0x2D02EF8D#32]

/-- R101, all 256 entries. -/
theorem test_table :
    (List.range 256).map (fun n => tableEntry (BitVec.ofNat 8 n)) =
      table0 ++ table1 ++ table2 ++ table3 ++ table4 ++ table5 ++ table6 ++ table7 := by
  decide +kernel

/-! ### The commands -/

/-- V7, the last row. -/
theorem test_upd : upd 0x12345678#32 0xAB#8 = 0x1FC8B738#32 := by decide

/-- V5. -/
theorem test_crc32_digits :
    crc32 [0x31#8, 0x32#8, 0x33#8, 0x34#8, 0x35#8, 0x36#8, 0x37#8, 0x38#8, 0x39#8] = 0xCBF43926#32 := by
  decide +kernel

/-- R195: from `STATUS` = 0x141 to 0x101. -/
theorem test_nop :
    nextHas (exec .nop { start [] with status := statusIllegal }) (fun t => t.status.toWord == 0x101#32) =
      true := by decide

/-- P1. -/
theorem test_crc_hello :
    nextHas (exec .crc startHello) (fun t =>
      t.result == 0xB4E89E84#32 && t.acc == 0x4B17617B#32 && t.status.toWord == 1#32) = true := by
  decide +kernel

/-- V9, the fourth row: the sum does not wrap. -/
theorem test_crc_range :
    nextHas (exec .crc { start [] with addr := 0xFFFFFFFF#32, size := 0xFFFFFFFF#32 }) (fun t =>
      t.status.toWord == 0x151#32) = true := by decide +kernel

/-- V12, the row 0x12345678, 3. -/
theorem test_zadv :
    nextHas (exec .zadv { start [] with vec := 0x12345678#32, count := 3#32, addr := 0xFFFFFFFF#32 })
      (fun t => t.result == 0x97B7379D#32 && t.acc == 0x97B7379D#32) = true := by decide +kernel

/-- V24, V23: words 0 and 31 of `MBuild(5)`. -/
theorem test_mbuild :
    nextHas (exec .mbuild { start [] with count := 5#32 }) (fun t =>
      t.mat.get 0 == 0x177B1443#32 && t.mat.get 31 == 0x1EB014D8#32 && t.inv.get 31 == 0#32) = true := by
  decide +kernel

/-- The cyclic shift of V25, the third row. -/
def cyclic : Mat := Mat.ofFn fun i => 1#32 <<< ((i.val + 1) % 32)

/-- V25, the third row. -/
theorem test_minv_cyclic :
    nextHas (exec .minv { start [] with mat := cyclic }) (fun t =>
      t.inv.get 0 == 0x80000000#32 && t.inv.get 1 == 1#32 && t.inv.get 31 == 0x40000000#32 &&
        t.mat.get 0 == 2#32 && t.status.toWord == 1#32) = true := by decide +kernel

/-- V26, the last row: a singular matrix leaves `INV` alone. -/
theorem test_minv_singular :
    nextHas (exec .minv { start [] with mat := Mat.ofFn fun _ => 0xFFFFFFFF#32, inv := cyclic })
      (fun t => t.inv == cyclic && t.status.toWord == 0x121#32) = true := by decide +kernel

/-- P4: the matrix is its own inverse, and `INV` sends 0x88 to 0x80. -/
theorem test_mvmul :
    nextHas (exec .mvmul
        { start [] with inv := (Mat.ofFn basis).set 7 0x88#32, vec := 0x88#32, acc := 5#32 })
      (fun t => t.result == 0x80#32 && t.acc == 5#32) = true := by decide +kernel

/-- V29, V27 the fifth row: `MAT` is `MBuild(0)`. -/
theorem test_mvmulM :
    nextHas (exec .mvmulM { start [] with mat := mBuild 0, vec := 0xDD592F96#32 })
      (fun t => t.result == 0x3821F7D1#32) = true := by decide +kernel

/-- V41, with words 0 and 31 of V22 and of V31. -/
theorem test_comp_V41 :
    nextHas (exec .comp startV41) (fun t =>
      t.baseCrc == 0x0E0C224A#32 && t.patch == 0xBDEDB02E#32 && t.result == 0xCAFEBABE#32 &&
        t.acc == 0x35014541#32 && t.status == ⟨true, none, false⟩ &&
        (List.range 8).map (fun k => t.mem.read (0x31 + k)) ==
          [0x11#8, 0x22#8, 0x2E#8, 0xB0#8, 0xED#8, 0xBD#8, 0x77#8, 0x88#8] &&
        t.mat.get 0 == 0xCB5CD3A5#32 && t.mat.get 31 == 0xE1351B80#32 &&
        t.inv.get 0 == 0x7555A0F1#32 && t.inv.get 31 == 0x2FF880C5#32) = true := by
  decide +kernel

/-- V53 and V55: `InvalidOffset`, also when the range is wrong too. -/
theorem test_comp_invalidOffset :
    nextHas (exec .comp (start [])) (fun t => t.status.toWord == 0x111#32) = true ∧
      nextHas (exec .comp { start [] with addr := 0xFFF8#32, size := 14#32, offset := 11#32 })
        (fun t => t.status.toWord == 0x111#32) = true := by decide +kernel

/-- V8, V40, R171: the buffer FF FF FF FF has the CRC 0xFFFFFFFF; forced to it, it does not change,
and `BASECRC` is that of four zeros. -/
theorem test_compT_tail :
    nextHas (exec .compT startTail) (fun t =>
      t.baseCrc == 0x2144DF1C#32 && t.patch == 0xFFFFFFFF#32 && t.result == 0xFFFFFFFF#32 &&
        t.acc == 0#32 && t.status == ⟨true, none, false⟩ && t.mem == startTail.mem) = true := by
  decide +kernel

/-- V50 and V54's fault in the tail form: `SIZE` = 3, and a buffer past the end of memory. -/
theorem test_compT_errors :
    nextHas (exec .compT { start [] with addr := 0xFFFFFFFF#32, size := 3#32 })
        (fun t => t.status.toWord == 0x111#32) = true ∧
      nextHas (exec .compT { start [] with addr := 0xFFF8#32, size := 14#32 })
        (fun t => t.status.toWord == 0x151#32) = true := by decide +kernel

/-! ### The host's actions -/

/-- `wr` then `rd` of one register: the value read (R89). -/
def readBack (r : Reg) (v : Word) : Bool :=
  nextHas (step ((State.reset.append (scriptWr r v)).append (scriptRd r))) fun t =>
    nextHas (step t) fun u => u.response == .word v

/-- V72: the read-write registers hold all 32 bits. -/
theorem test_readback :
    [Reg.addr, .size, .target, .offset, .vec, .count, .mat 0, .mat 31].all
      (fun r => readBack r 0xFFFFFFFF#32) = true := by decide +kernel

/-- V71: read-only and reserved offsets do not take a value; `TABLE[1]` keeps its own. -/
theorem test_read_only :
    [Reg.result, .status, .inv 0, .table 1, .reserved].all
        (fun r => !readBack r 0x12345678#32) = true ∧ readBack (.table 1) 0x77073096#32 = true := by
  decide +kernel

/-- V73: `CMD` reads back an illegal word, and `STATUS` is 0x141. -/
theorem test_cmd_illegal :
    readBack .cmd 0xFFFFFFFF#32 = true ∧
      nextHas (step (State.reset.withFetchWord 32 7)) (fun t => t.status.toWord == 0x141#32) = true := by
  decide +kernel

/-- V70: a register of each group after reset, through the port. -/
theorem test_reset_values :
    [(0, 0#32), (11, 0#32), (32, 0#32), (95, 0#32), (256, 0#32), (257, 0x77073096#32),
      (511, 0x2D02EF8D#32)].all (fun (p : WinIndex × Word) =>
        nextHas (step (State.reset.append [.regRead p.1])) fun t => t.response == .word p.2) = true := by
  decide +kernel

/-- V59: `Reset` clears the registers and keeps memory. -/
theorem test_reset :
    nextHas (step { startHello with status := statusIllegal, patch := 1#32, pending := [.reset] })
      (fun t => t.status.toWord == 0#32 && t.addr == 0#32 && t.patch == 0#32 &&
        t.mem == startHello.mem) = true := by decide +kernel

/-- The memory port: a byte at the last address, and none past it. -/
theorem test_memory_port :
    nextHas (step { start [] with pending := [.memWrite 0xFFFF#32 0xAB#8] })
        (fun t => t.mem == [(0xFFFF, 0xAB#8)]) = true ∧
      step { start [] with pending := [.memRead 0x10000#32] } = .refused .hostAddressOutOfRange :=
  ⟨by decide +kernel, rfl⟩

/-- R90, the pseudo-instruction `compensate`, written out as actions. -/
theorem test_script :
    scriptCompensate 0x100#32 14#32 0xDEADBEEF#32 =
      [.regWrite 2 0x100#32, .regWrite 3 14#32, .regWrite 4 0xDEADBEEF#32, .regWrite 0 0x106#32,
        .regRead 1] := by decide

/-- The canonical form: equal contents are equal data, whatever was written on the way. -/
theorem test_memory_canonical :
    ((memOf 5 [1#8, 2#8]).write 5 0#8 = memOf 6 [2#8]) ∧
      Memory.wf [(6, 2#8), (5, 1#8)] = false ∧ Memory.wf [(5, 0#8)] = false := by decide

/-! ### Witnesses: a state and operands that meet the hypotheses of each statement that has some, at
the boundary values of its clauses -/

/-- A state with one action pending. -/
def withAction (a : HostAction) : State := { start [] with pending := [a] }

/-- The run of `test_comp_V41`: `comp` ends without error, and the patch is stored at 0x33. -/
theorem ran_comp : ∃ t, exec .comp startV41 = .next t ∧ t.status.err = none := by
  obtain ⟨t, ht, hp⟩ := nextHas_elim test_comp_V41
  refine ⟨t, ht, ?_⟩
  simp only [Bool.and_eq_true, beq_iff_eq] at hp
  have hst : t.status = ⟨true, none, false⟩ := by simp_all
  rw [hst]

/-- The run of `test_compT_tail`: `comp.t` ends without error. -/
theorem ran_compT : ∃ t, exec .compT startTail = .next t ∧ t.status.err = none := by
  obtain ⟨t, ht, hp⟩ := nextHas_elim test_compT_tail
  refine ⟨t, ht, ?_⟩
  simp only [Bool.and_eq_true, beq_iff_eq] at hp
  have hst : t.status = ⟨true, none, false⟩ := by simp_all
  rw [hst]

theorem test_witness_StepRunsTheDecodedCommand :
    (withAction (.regWrite 0 0x106#32)).pending = .regWrite 0 0x106#32 :: [] ∧
      decode 0x106#32 = .ok .compT := ⟨rfl, by decide⟩

theorem test_witness_LegalWordsAreExactlyTheDecodable :
    legalCommandWord 0x00000206#32 = false ∧ legalCommandWord 0xFFFFFFFF#32 = false := by decide

/-- The last address and the first one past it; no action pending. -/
theorem test_witness_EveryStepCompletes :
    (withAction (.memRead 0xFFFF#32)).nextInDomain = true ∧
      (withAction (.memRead 0x10000#32)).nextInDomain = false ∧
      (withAction (.memWrite 0xFFFF#32 1#8)).nextInDomain = true ∧
      (withAction (.memWrite 0x10000#32 1#8)).nextInDomain = false ∧ (start []).pending = [] :=
  ⟨by decide, by decide, by decide, by decide, rfl⟩

theorem test_witness_StepTakesOneHostAction :
    (withAction (.regWrite 2 7#32)).pending = .regWrite 2 7#32 :: [] ∧
      step (withAction (.regWrite 2 7#32)) = .next { start [] with addr := 7#32 } := ⟨rfl, rfl⟩

/-- The first and the last word of `MAT`. -/
theorem test_witness_OperandWriteSetsOneRegister :
    4 * (32 : WinIndex).val = 0x080 + 4 * (0 : Fin 32).val ∧
      4 * (63 : WinIndex).val = 0x080 + 4 * (31 : Fin 32).val := by decide

/-- `STATUS`, `RESULT`, the ends of both reserved ranges, both ends of `INV`, and of `TABLE`. -/
theorem test_witness_ReadOnlyWritesAreIgnored :
    ([1, 8, 11, 12, 31, 64, 95, 96, 255, 256, 511] : List WinIndex).all
        (fun k => readOnlyOffset (4 * k.val)) = true ∧
      ([0, 2, 7, 32, 63] : List WinIndex).all (fun k => !readOnlyOffset (4 * k.val)) = true := by decide

theorem test_witness_HostMemoryPortReadsAndWrites :
    (0xFFFF#32).toNat < (start []).cfg.memBytes ∧ (start []).mem.wf = true := by decide

/-- A command, from a state in which both sticky bits are set. -/
theorem test_witness_ResetRestoresTheRegisters :
    ∃ s t : State, hostAct (.regWrite 0 0#32) s = .next t ∧ s.status.done = true ∧
      s.status.errSeen = true :=
  ⟨{ start [] with status := statusIllegal }, { start [] with status := ⟨true, none, true⟩ }, rfl, rfl,
    rfl⟩

theorem test_witness_PowerOnValues :
    4 * (255 : WinIndex).val < 0x400 ∧ startHello.cfg = ⟨0x0000FFFF#32⟩ ∧
      startHello.mem = memOf 0x100 hello := ⟨by decide, rfl, rfl⟩

/-- V9, the first row and the second: the empty buffer at the very end of memory, and one past it. -/
theorem test_witness_CrcResult :
    (0x10000#32).toNat + (0#32).toNat ≤ (start []).cfg.memBytes ∧
      (start []).cfg.memBytes < (0x10001#32).toNat + (0#32).toNat := by decide

/-- The bits of a product, for the identity matrix only. -/
theorem identity_foldl (v : Word) (j : Nat) (hj : j < 32) (l : List (Fin 32)) (hl : l.Nodup) (r : Word) :
    (l.foldl (fun r i => if v.getLsbD i.val then r ^^^ (Mat.ofFn basis).get i else r) r).getLsbD j =
      (r.getLsbD j ^^ (decide (⟨j, hj⟩ ∈ l) && v.getLsbD j)) := by
  induction l generalizing r with
  | nil => simp
  | cons i l ih =>
    have hbit : ((Mat.ofFn basis).get i).getLsbD j = decide (i.val = j) := by
      have : (Mat.ofFn basis).get i = basis i := by
        simp [Mat.ofFn, Vector.get]
        rfl
      rw [this, basis]
      by_cases h : i.val = j
      · subst h
        simp
      · simp only [h, decide_false, BitVec.getLsbD_shiftLeft, BitVec.getLsbD_one]
        by_cases hlt : j < i.val <;> simp [hlt] ; omega
    rw [List.foldl_cons, ih (List.nodup_cons.mp hl).2]
    by_cases h : i.val = j
    · subst h
      have hnot : i ∉ l := (List.nodup_cons.mp hl).1
      rw [apply_ite (BitVec.getLsbD · i.val), BitVec.getLsbD_xor, hbit]
      cases hv : v.getLsbD i.val <;> simp [hnot]
    · have hne : (⟨j, hj⟩ : Fin 32) ≠ i := fun he => h (by rw [← he])
      cases hv : v.getLsbD i.val <;> simp [hne, hbit, h]

theorem identity_nonsingular : Mat.Nonsingular (Mat.ofFn basis) := by
  intro v hv
  apply BitVec.eq_of_getLsbD_eq
  intro j hj
  have := identity_foldl v j hj (List.finRange 32) (List.nodup_finRange 32) 0#32
  rw [show (List.finRange 32).foldl _ 0#32 = mulVec (Mat.ofFn basis) v from rfl, hv] at this
  simpa using this.symm

theorem zero_singular : ¬ Mat.Nonsingular Mat.zero := fun h =>
  absurd (h 1#32 (by decide +kernel)) (by decide)

theorem test_witness_MinvResult :
    Mat.Nonsingular ({ start [] with mat := Mat.ofFn basis } : State).mat ∧
      ¬ Mat.Nonsingular (start []).mat := ⟨identity_nonsingular, zero_singular⟩

/-- The clauses at their edges: `SIZE` one short; the buffer one byte past memory; the buffer that
ends with memory, its patch field the last four bytes. -/
theorem test_witness_CompResult :
    (8#32).toNat < (5#32).toNat + 4 ∧
      ((5#32).toNat + 4 ≤ (9#32).toNat ∧ (start []).cfg.memBytes < (0xFFF8#32).toNat + (9#32).toNat) ∧
      ((5#32).toNat + 4 ≤ (9#32).toNat ∧ (0xFFF7#32).toNat + (9#32).toNat ≤ (start []).cfg.memBytes) ∧
      (startV41.offset.toNat + 4 ≤ startV41.size.toNat ∧
        startV41.addr.toNat + startV41.size.toNat ≤ startV41.cfg.memBytes) := by decide

theorem test_witness_CompTResult :
    (3#32).toNat < 4 ∧
      (4 ≤ (4#32).toNat ∧ (start []).cfg.memBytes < (0xFFFD#32).toNat + (4#32).toNat) ∧
      (4 ≤ startTail.size.toNat ∧
        startTail.addr.toNat + startTail.size.toNat ≤ startTail.cfg.memBytes) := by decide

/-- `crc`, `comp` and `comp.t` end in a next state, with an error and without. -/
theorem test_witness_OffsetAndRangeErrorsExactly :
    (∃ s t : State, exec .crc s = .next t ∧ t.status.err = some .addrRange) ∧
      (∃ s t : State, exec .comp s = .next t ∧ t.status.err = some .invalidOffset) ∧
      (∃ s t : State, exec .comp s = .next t ∧ t.status.err = some .addrRange) ∧
      (∃ s t : State, exec .comp s = .next t ∧ t.status.err = none) ∧
      (∃ s t : State, exec .compT s = .next t ∧ t.status.err = some .invalidOffset) ∧
      (∃ s t : State, exec .compT s = .next t ∧ t.status.err = some .addrRange) ∧
      ∃ s t : State, exec .compT s = .next t ∧ t.status.err = none :=
  ⟨⟨{ start [] with addr := 0x10001#32 }, _, rfl, rfl⟩, ⟨start [], _, rfl, rfl⟩,
    ⟨{ start [] with addr := 0x10000#32, size := 4#32 }, _, rfl, rfl⟩, ⟨_, ran_comp⟩,
    ⟨start [], _, rfl, rfl⟩, ⟨{ start [] with addr := 0xFFFD#32, size := 4#32 }, _, rfl, rfl⟩,
    ⟨_, ran_compT⟩⟩

theorem test_witness_ErrorsLeaveEverythingElse :
    ∃ t : State, exec .minv (start []) = .next t ∧ t.status.err = some .unsolvable := by
  obtain ⟨t, ht, hp⟩ := nextHas_elim (o := exec .minv (start []))
    (p := fun t => t.status.err == some .unsolvable) (by decide +kernel)
  exact ⟨t, ht, by simpa using hp⟩

theorem test_witness_CommandsEndWithTheirCodes : legalCommandWord 0x00000305#32 = false := by decide

theorem test_witness_EveryCommandReportsInStatus :
    ∃ t : State, exec .nop { start [] with status := statusIllegal } = .next t := ⟨_, rfl⟩

/-- A singular `MAT`; an empty buffer, whose CRC is 0, with another target. -/
theorem test_witness_MustHandleBranchesStay :
    gf2Invert (start []).mat = none ∧
      ((start []).addr.toNat + (start []).size.toNat ≤ (start []).cfg.memBytes ∧
        crc32 ({ start [] with target := 1#32 } : State).bufferBytes ≠
          ({ start [] with target := 1#32 } : State).target) :=
  ⟨by decide +kernel, by decide, by decide⟩

theorem test_witness_InternalIsNeverRaised :
    (∃ t : State, exec .comp startV41 = .next t) ∧ ∃ t : State, exec .compT startTail = .next t :=
  ⟨⟨_, ran_comp.choose_spec.1⟩, ⟨_, ran_compT.choose_spec.1⟩⟩

theorem test_witness_EngineNeverWritesOperands : ∃ t : State, exec .comp startV41 = .next t :=
  ⟨_, ran_comp.choose_spec.1⟩

/-- A next state for a command of each clause. -/
theorem test_witness_ResultRegistersByCommand :
    (∃ t : State, exec .mbuild (start []) = .next t) ∧ (∃ t : State, exec .mvmulM (start []) = .next t) ∧
      (∃ t : State, exec .zadv (start []) = .next t) ∧ (∃ t : State, exec .nop (start []) = .next t) ∧
      ∃ t : State, exec .crc (start []) = .next t := by
  refine ⟨⟨_, rfl⟩, ⟨_, rfl⟩, ⟨_, rfl⟩, ⟨_, rfl⟩, ?_⟩
  obtain ⟨t, ht, -⟩ := nextHas_elim (o := exec .crc (start [])) (p := fun _ => true) (by decide)
  exact ⟨t, ht⟩

/-- The bytes just below and just above the patch field of V41, which is 0x33 to 0x36; an error; a
command that stores nothing. -/
theorem test_witness_MemoryFrameOfCommands :
    (∃ t : State, exec .comp startV41 = .next t) ∧ startV41.outsidePatch .comp 0x32 ∧
      startV41.outsidePatch .comp 0x37 ∧ ¬ startV41.outsidePatch .comp 0x33 ∧
      ¬ startV41.outsidePatch .comp 0x36 ∧
      (∃ t : State, exec .comp (start []) = .next t ∧ t.status.err ≠ none) ∧
      ∃ t : State, exec .nop (start []) = .next t :=
  ⟨⟨_, ran_comp.choose_spec.1⟩, .inl (by decide), .inr (by decide), by unfold State.outsidePatch; decide,
    by unfold State.outsidePatch; decide, ⟨_, rfl, by decide⟩, ⟨_, rfl⟩⟩

theorem test_witness_CommandsAreIdempotent :
    startV41.memWf = true ∧ ∃ t : State, exec .comp startV41 = .next t :=
  ⟨by decide +kernel, _, ran_comp.choose_spec.1⟩

/-- A state in use, not only the one at reset: its `STATUS` shows an error, a byte is stored. -/
theorem test_witness_StepKeepsTheInvariant :
    State.Inv { start [(5, 1#8)] with status := statusIllegal, result := 3#32, pending := [.reset] } ∧
      ∃ t : State, step { start [(5, 1#8)] with
        status := statusIllegal, result := 3#32, pending := [.reset] } = .next t :=
  ⟨⟨by decide, by decide, by decide⟩, _, rfl⟩

theorem test_witness_PowerOnMeetsTheInvariant :
    Memory.wf [(0, 1#8), (0xFFFF, 2#8)] = true ∧
      Memory.within [(0, 1#8), (0xFFFF, 2#8)] ⟨0x0000FFFF#32⟩ = true := by decide

theorem test_witness_UpdateIsLinear : [1#8, 2#8].length = [3#8, 4#8].length := rfl

theorem test_witness_WordIsStoredLittleEndian : 0xFFFC + 3 < (start []).cfg.memBytes := by decide

/-- The buffer of P1 and memory that differs from it just below and just above it. -/
theorem test_witness_CrcDependsOnlyOnItsBuffer :
    (∀ k, k < startHello.size.toNat →
        Memory.read (((startHello.mem).write 0xFF 9#8).write 0x10E 9#8) (startHello.addr.toNat + k) =
          startHello.mem.read (startHello.addr.toNat + k)) ∧
      ∃ t : State, exec .crc startHello = .next t := by
  refine ⟨by decide +kernel, ?_⟩
  obtain ⟨t, ht, -⟩ := nextHas_elim test_crc_hello
  exact ⟨t, ht⟩

theorem test_witness_InversionIsCorrect :
    (∃ b, gf2Invert (Mat.ofFn basis) = some b) ∧ gf2Invert Mat.zero = none ∧
      ¬ Mat.Nonsingular Mat.zero :=
  ⟨Option.isSome_iff_exists.mp (by decide +kernel), by decide +kernel, zero_singular⟩

theorem test_witness_MBuildIsInvertible :
    (∃ t : State, exec .comp startV41 = .next t) ∧ ∃ t : State, exec .compT startTail = .next t :=
  test_witness_InternalIsNeverRaised

/-- Memory that differs from that of V41 in every byte of the patch field and in no other. -/
theorem test_witness_PatchFieldIsNotRead :
    (∀ a, startV41.outsidePatch .comp a →
        Memory.read (startV41.mem.writeBytes 0x33 [0#8, 1#8, 2#8, 3#8]) a = startV41.mem.read a) ∧
      ∃ t : State, exec .comp startV41 = .next t ∧ t.status.err = none := by
  refine ⟨fun a ha => Memory.read_writeBytes_outside ?_, ran_comp⟩
  have haddr : startV41.addr.toNat + startV41.patchOffset .comp = 0x33 := by decide
  simp only [State.outsidePatch, haddr] at ha
  simpa using ha

/-- The buffer is the patch field alone. -/
theorem test_witness_PatchedCrcIdentity :
    0 + 4 ≤ startTail.size.toNat ∧ ∃ b, gf2Invert (mBuild (startTail.size.toNat - 0 - 4)) = some b :=
  ⟨by decide, Option.isSome_iff_exists.mp (by decide +kernel)⟩

/-- The buffer FF FF FF FF, whose CRC is the target already (V8). -/
theorem test_witness_PatchWordIsUnique :
    0 + 4 ≤ startTail.size.toNat ∧ crc32 startTail.bufferBytes = startTail.target ∧
      ∃ t : State, exec .compT startTail = .next t ∧ t.status.err = none :=
  ⟨by decide, by decide +kernel, ran_compT⟩

theorem test_witness_ForcedCrcIsReadBack :
    startV41.target = 0x35014541#32 ^^^ 0xFFFFFFFF#32 ∧
    (∃ t : State, exec .comp startV41 = .next t ∧ t.status.err = none) ∧
      ∃ t : State, exec .compT startTail = .next t ∧ t.status.err = none :=
  ⟨by decide, ran_comp, ran_compT⟩

end Sys2Proof.Tests
end

section
/-! PROOFS. The statements of the family `10_state.md`: what each command leaves unchanged (R21, R32),
the reset values (R33, R34) and the layout of `STATUS` (R25). -/

namespace Sys2Proof.Machine

/-! ### How each command ends -/

/-- How a compensation of `s` at the effective offset `off` ends: the rows of R165, each with its
condition. -/
inductive CompensationEnds (off : Nat) (s : State) : State → Prop
  | invalidOffset (hoff : s.size.toNat < off + 4) : CompensationEnds off s (s.raise .invalidOffset)
  | addrRange (hoff : off + 4 ≤ s.size.toNat)
      (hmem : s.cfg.memBytes < s.addr.toNat + s.size.toNat) :
      CompensationEnds off s (s.raise .addrRange)
  | unsolvable (hoff : off + 4 ≤ s.size.toNat)
      (hmem : s.addr.toNat + s.size.toNat ≤ s.cfg.memBytes)
      (hinv : gf2Invert (mBuild (s.trailing off)) = none) :
      CompensationEnds off s ((s.afterBase off).raise .unsolvable)
  | verified {b : Mat} (hoff : off + 4 ≤ s.size.toNat)
      (hmem : s.addr.toNat + s.size.toNat ≤ s.cfg.memBytes)
      (hinv : gf2Invert (mBuild (s.trailing off)) = some b)
      (hres : (s.afterVerify off b).result = s.target) :
      CompensationEnds off s (s.afterVerify off b).complete
  | mismatch {b : Mat} (hoff : off + 4 ≤ s.size.toNat)
      (hmem : s.addr.toNat + s.size.toNat ≤ s.cfg.memBytes)
      (hinv : gf2Invert (mBuild (s.trailing off)) = some b)
      (hres : (s.afterVerify off b).result ≠ s.target) :
      CompensationEnds off s ((s.afterVerify off b).raise .internal)

/-- How the command `i` ends in the state `s`: one constructor for each way, with its condition. -/
inductive CommandEnds (s : State) : Instr → State → Prop
  | nop : CommandEnds s .nop s.complete
  | crc (hmem : s.addr.toNat + s.size.toNat ≤ s.cfg.memBytes) :
      CommandEnds s .crc
        (s.putAccResult (raw crcInit s.bufferBytes) (crc32 s.bufferBytes)).complete
  | crcAddrRange (hmem : s.cfg.memBytes < s.addr.toNat + s.size.toNat) :
      CommandEnds s .crc (s.raise .addrRange)
  | zadv : CommandEnds s .zadv
      (s.putAccResult (zAdv s.vec s.count.toNat) (zAdv s.vec s.count.toNat)).complete
  | mbuild : CommandEnds s .mbuild (s.putMat (mBuild s.count.toNat)).complete
  | minv {b : Mat} (hinv : gf2Invert s.mat = some b) : CommandEnds s .minv (s.putInv b).complete
  | minvUnsolvable (hinv : gf2Invert s.mat = none) : CommandEnds s .minv (s.raise .unsolvable)
  | mvmul : CommandEnds s .mvmul (s.putResult (mulVec s.inv s.vec)).complete
  | mvmulM : CommandEnds s .mvmulM (s.putResult (mulVec s.mat s.vec)).complete
  | comp {t : State} (h : CompensationEnds s.offset.toNat s t) : CommandEnds s .comp t
  | compT {t : State} (h : CompensationEnds (s.size.toNat - 4) s t) : CommandEnds s .compT t

theorem compensateAt_ends (off : Nat) (s : State) :
    ∃ t, compensateAt off s = .next t ∧ CompensationEnds off s t := by
  obtain ⟨hoff, h⟩ | ⟨hoff, hmem, h⟩ | ⟨hoff, hmem, ⟨hinv, h⟩ | ⟨b, hinv, ⟨hres, h⟩ | ⟨hres, h⟩⟩⟩ :=
    compensateAt_cases off s
  · exact ⟨_, h, .invalidOffset hoff⟩
  · exact ⟨_, h, .addrRange hoff hmem⟩
  · exact ⟨_, h, .unsolvable hoff hmem hinv⟩
  · exact ⟨_, h, .verified hoff hmem hinv hres⟩
  · exact ⟨_, h, .mismatch hoff hmem hinv hres⟩

/-- Every command has a next state, and ends in one of its ways (R61, R62: it never faults). -/
theorem exec_ends (i : Instr) (s : State) : ∃ t, exec i s = .next t ∧ CommandEnds s i t := by
  cases i with
  | nop => exact ⟨_, rfl, .nop⟩
  | crc =>
    obtain ⟨hmem, h⟩ | ⟨hmem, h⟩ := execCrc_cases s
    · exact ⟨_, h, .crc hmem⟩
    · exact ⟨_, h, .crcAddrRange hmem⟩
  | zadv => exact ⟨_, rfl, .zadv⟩
  | mbuild => exact ⟨_, rfl, .mbuild⟩
  | minv =>
    obtain ⟨b, hinv, h⟩ | ⟨hinv, h⟩ := execMinv_cases s
    · exact ⟨_, h, .minv hinv⟩
    · exact ⟨_, h, .minvUnsolvable hinv⟩
  | mvmul => exact ⟨_, rfl, .mvmul⟩
  | mvmulM => exact ⟨_, rfl, .mvmulM⟩
  | comp =>
    obtain ⟨t, h, ht⟩ := compensateAt_ends s.offset.toNat s
    exact ⟨t, h, .comp ht⟩
  | compT =>
    obtain ⟨t, h, ht⟩ := compensateAt_ends (s.size.toNat - 4) s
    exact ⟨t, (execCompT_eq s).trans h, .compT ht⟩

theorem CommandEnds.of_exec {i : Instr} {s t : State} (h : exec i s = .next t) :
    CommandEnds s i t := by
  obtain ⟨t', h', ht'⟩ := exec_ends i s
  cases h.symm.trans h'
  exact ht'

/-! ### The zero matrix and the reset values -/

@[simp] theorem Mat.get_zero (i : Fin 32) : Mat.zero.get i = 0#32 := by
  simp [Mat.zero, Vector.get]

theorem Mat.getD_toList_zero (n : Nat) : Mat.zero.toList.getD n 0#32 = 0#32 := by
  simp only [Mat.zero, Vector.toList_replicate, List.getD_eq_getElem?_getD, List.getElem?_replicate]
  split <;> rfl

@[simp] theorem pivotRow_zero (c : Fin 32) : pivotRow Mat.zero c = none := by
  simp [pivotRow]

/-- No column of the zero matrix has a pivot, so the elimination ends at the first one (R134). -/
@[simp] theorem gf2Invert_zero : gf2Invert Mat.zero = none := by
  simp [gf2Invert, List.finRange_succ, elimColumns, elimColumn]

@[simp] theorem mulVec_zero_mat (v : Word) : mulVec Mat.zero v = 0#32 := by
  simp [mulVec, List.foldl_fixed]

theorem State.bufferBytes_of_size_zero {s : State} (h : s.size = 0#32) : s.bufferBytes = [] := by
  simp [State.bufferBytes, h]

/-- `TABLE[n]` reads as its constant in every state (R29, R191). -/
theorem State.windowValue_table (s : State) (n : Byte) :
    s.windowValue (0x400 + 4 * n.toNat) = tableEntry n := by
  have hn := n.isLt
  unfold State.windowValue
  -- the offset is past the twelve single registers, `MAT` and `INV`
  iterate 14 rw [if_neg (by omega)]
  rw [if_pos (by omega), Nat.add_sub_cancel_left, Nat.mul_div_cancel_left _ (by decide),
    BitVec.ofNat_toNat, BitVec.setWidth_eq]

/-- Every offset of the window below `TABLE` reads as 0 after power-on (R33). -/
theorem State.windowValue_powerOn (c : Config) (m : Memory) {o : Nat} (h : o < 0x400) :
    (State.powerOn c m).windowValue o = 0#32 := by
  have htable : ¬ (0x400 ≤ o ∧ o ≤ 0x7FC) := by omega
  simp only [State.windowValue, State.powerOn, Mat.getD_toList_zero, htable, if_false]
  simp [Status.reset, errNumber]

theorem State.powerOn_inv {c : Config} {m : Memory} (hwf : m.wf = true)
    (hin : m.within c = true) : (State.powerOn c m).Inv := by
  refine ⟨?_, rfl, ?_⟩
  · simp [State.memWf, State.powerOn, hwf, hin]
  · simp [State.freshIfNotDone, State.powerOn]

/-! ### The `STATUS` word -/

theorem errField_toNat (e : Option ErrorKind) : (errField e).toNat = errNumber e := by
  rcases e with _ | (_ | _ | _ | _ | _) <;> rfl

theorem errNumber_le (e : Option ErrorKind) : errNumber e ≤ 5 := by
  rcases e with _ | (_ | _ | _ | _ | _) <;> decide

/-- The `STATUS` word bit by bit (R25). -/
theorem Status.getLsbD_toWord (st : Status) (i : Nat) :
    st.toWord.getLsbD i =
      if i = 0 then st.done
      else if 4 ≤ i ∧ i < 8 then (errField st.err).getLsbD (i - 4)
      else if i = 8 then st.errSeen
      else false := by
  simp only [Status.toWord, BitVec.getLsbD_append, BitVec.getLsbD_ofBool, BitVec.getLsbD_zero]
  grind

/-- A run of the word's bits that are all 0 is a zero field. -/
theorem Status.extractLsb'_toWord_eq_zero (st : Status) {lo n : Nat}
    (h : ∀ i, lo ≤ i → i < lo + n → st.toWord.getLsbD i = false) :
    st.toWord.extractLsb' lo n = 0#n := by
  ext i hi
  simpa using h (lo + i) (by omega) (by omega)

/-- Bits 7:4 of the word are the field `ERR` (R25). -/
theorem Status.extractLsb'_toWord_err (st : Status) :
    st.toWord.extractLsb' 4 4 = errField st.err := by
  ext i hi
  simp only [BitVec.getElem_extractLsb', Status.getLsbD_toWord]
  rw [if_neg (by omega), if_pos (by omega), Nat.add_sub_cancel_left, BitVec.getLsbD_eq_getElem hi]

end Sys2Proof.Machine

open Sys2Proof Sys2Proof.Machine

/-! ### The statements settled -/

/-- Settles O31: the named updates of each way a command ends write no operand register. -/
theorem engineNeverWritesOperands : Obligations.EngineNeverWritesOperands := by
  intro i s t h
  cases CommandEnds.of_exec h with
  | comp hc | compT hc =>
    cases hc <;> simp [State.afterVerify, State.afterWrite, State.afterBase]
  | _ => simp

/-- Settles O32, by the ways a command ends; no clause speaks of `comp` and `comp.t`. -/
theorem resultRegistersByCommand : Obligations.ResultRegistersByCommand := by
  intro i s t h
  cases CommandEnds.of_exec h <;> simp

/-- Settles O13: below `TABLE` the window reads the zero fields, from there on the constants. -/
theorem powerOnValues : Obligations.PowerOnValues := by
  intro c m
  refine ⟨fun k hk => State.windowValue_powerOn c m hk, (State.powerOn c m).windowValue_table, rfl,
    rfl, ?_⟩
  rintro s rfl rfl
  rfl

/-- Settles O14: both files are zero, so `MAT` has no pivot and every product is 0; the buffer is
empty. -/
theorem firstCommandsAfterReset : Obligations.FirstCommandsAfterReset := by
  intro c m
  refine ⟨⟨rfl, rfl, rfl, rfl, rfl⟩, ?_, ?_, ?_⟩
  · have hinv : gf2Invert (State.powerOn c m).mat = none := gf2Invert_zero
    simp only [exec, execMinv, hinv]
    rfl
  · have hmul : mulVec (State.powerOn c m).inv (State.powerOn c m).vec = 0#32 := mulVec_zero_mat _
    simp only [exec, execMvmul, hmul]
    rfl
  · have hbuf : (State.powerOn c m).bufferBytes = [] := State.bufferBytes_of_size_zero rfl
    obtain ⟨-, h⟩ | ⟨hmem, -⟩ := execCrc_cases (State.powerOn c m)
    · rw [exec, h, hbuf]
      rfl
    · simp [State.powerOn] at hmem

/-- Settles O28, field by field from the word's bits. -/
theorem statusWordLayout : Obligations.StatusWordLayout := by
  intro st
  have hzero {lo n : Nat} (hlo : 0 < lo) (hrun : lo + n ≤ 4 ∨ 9 ≤ lo) :
      st.toWord.extractLsb' lo n = 0#n :=
    st.extractLsb'_toWord_eq_zero fun i _ _ => by
      rw [Status.getLsbD_toWord, if_neg (by omega), if_neg (by omega), if_neg (by omega)]
  refine ⟨st.getLsbD_toWord 0, hzero (by decide) (by decide), ?_, errNumber_le _,
    st.getLsbD_toWord 8, hzero (by decide) (by decide)⟩
  rw [Status.extractLsb'_toWord_err, errField_toNat]

/-- Settles O36: both parts are of a power-on state. -/
theorem powerOnMeetsTheInvariant : Obligations.PowerOnMeetsTheInvariant :=
  ⟨fun _ _ => State.powerOn_inv, State.powerOn_inv rfl rfl⟩
end

section
/-! PROOFS. Why a compensation cannot miss its target (R168), for the memory frame of R70: the CRC passes
are linear (R107), `MulVec` is the linear map of its words (R136), `MBuild(t)` is the matrix of a pass
over a word and `t` zeros (R133), and the elimination inverts what it is given (R135). -/

namespace Sys2Proof.Machine

/-! ### Linearity of the CRC passes (R107) -/

/-- A word XORed in under a condition, as R100 and R136 do it, is linear in the condition and the
accumulator together. -/
theorem ite_xor_xor (c c' : Bool) (r r' z : Word) :
    (if c ^^ c' then r ^^^ r' ^^^ z else r ^^^ r') =
      (if c then r ^^^ z else r) ^^^ (if c' then r' ^^^ z else r') := by
  have hcancel : r ^^^ z ^^^ (r' ^^^ z) = r ^^^ r' := by
    rw [show r ^^^ z ^^^ (r' ^^^ z) = r ^^^ r' ^^^ (z ^^^ z) by ac_rfl, BitVec.xor_self,
      BitVec.xor_zero]
  match c, c' with
  | false, false => rfl
  | false, true => exact BitVec.xor_assoc r r' z
  | true, false =>
    show r ^^^ r' ^^^ z = r ^^^ z ^^^ r'
    ac_rfl
  | true, true => exact hcancel.symm

theorem shiftRound_xor (a b : Word) : shiftRound (a ^^^ b) = shiftRound a ^^^ shiftRound b := by
  simp only [shiftRound, BitVec.getLsbD_xor, BitVec.ushiftRight_xor_distrib, ite_xor_xor]

theorem shiftRounds_xor (n : Nat) (a b : Word) :
    shiftRounds n (a ^^^ b) = shiftRounds n a ^^^ shiftRounds n b := by
  induction n generalizing a b with
  | zero => rfl
  | succ n ih => simp only [shiftRounds, shiftRound_xor, ih]

theorem tableEntry_xor (a b : Byte) : tableEntry (a ^^^ b) = tableEntry a ^^^ tableEntry b := by
  simp only [tableEntry, BitVec.setWidth_xor, shiftRounds_xor]

/-- The table index is the low byte, with or without the mask of R102. -/
theorem setWidth_and_low (w : Word) : (w &&& 0xFF#32).setWidth 8 = w.setWidth 8 := by
  have hmask : (0xFF#32).setWidth 8 = BitVec.allOnes 8 := by decide
  rw [BitVec.setWidth_and, hmask, BitVec.and_allOnes]

/-- One byte round is linear in the accumulator and the byte together (R107). -/
theorem upd_xor (a a' : Word) (b b' : Byte) : upd (a ^^^ a') (b ^^^ b') = upd a b ^^^ upd a' b' := by
  have hindex : (((a ^^^ a') ^^^ (b ^^^ b').setWidth 32) &&& 0xFF#32).setWidth 8 =
      ((a ^^^ b.setWidth 32) &&& 0xFF#32).setWidth 8 ^^^
        ((a' ^^^ b'.setWidth 32) &&& 0xFF#32).setWidth 8 := by
    simp only [setWidth_and_low, BitVec.setWidth_xor]
    ac_rfl
  rw [upd, hindex, tableEntry_xor, BitVec.ushiftRight_xor_distrib, upd, upd]
  ac_rfl

theorem zAdv_xor (n : Nat) (a a' : Word) : zAdv (a ^^^ a') n = zAdv a n ^^^ zAdv a' n := by
  induction n generalizing a a' with
  | zero => rfl
  | succ n ih => simp only [zAdv_succ, ← ih, ← upd_xor, BitVec.xor_self]

/-- A change of the accumulator goes through the bytes as through zeros (R107). -/
theorem raw_xor (a a' : Word) (bs : List Byte) :
    raw (a ^^^ a') bs = raw a bs ^^^ zAdv a' bs.length := by
  induction bs generalizing a a' with
  | nil => rfl
  | cons b bs ih =>
    simp only [raw_cons, List.length_cons, zAdv_succ, ← ih, ← upd_xor, BitVec.xor_zero]

theorem raw_append (acc : Word) (xs ys : List Byte) : raw acc (xs ++ ys) = raw (raw acc xs) ys := by
  induction xs generalizing acc with
  | nil => rfl
  | cons x xs ih => simp only [List.cons_append, raw_cons, ih]

/-- A pass over the four bytes of a word is linear in the accumulator and the word together. -/
theorem raw_le4_xor (a a' p p' : Word) :
    raw (a ^^^ a') (le4 (p ^^^ p')) = raw a (le4 p) ^^^ raw a' (le4 p') := by
  simp only [le4, raw_cons, raw_nil, ← upd_xor, BitVec.extractLsb'_xor]

/-! ### `MulVec` as a linear map (R136) -/

@[simp] theorem Mat.get_ofFn (f : Fin 32 → Word) (i : Fin 32) : (Mat.ofFn f).get i = f i := by
  simp [Mat.ofFn, Vector.get_eq_getElem]

/-- One term of the sum of R136: the word `x[i]` where bit `i` of `v` is 1. -/
def mulVecStep (x : Mat) (v r : Word) (i : Fin 32) : Word :=
  if v.getLsbD i.val then r ^^^ x.get i else r

theorem mulVec_eq_foldl (x : Mat) (v : Word) :
    mulVec x v = (List.finRange 32).foldl (mulVecStep x v) 0#32 := rfl

theorem mulVecStep_xor (x : Mat) (v v' r r' : Word) (i : Fin 32) :
    mulVecStep x (v ^^^ v') (r ^^^ r') i = mulVecStep x v r i ^^^ mulVecStep x v' r' i := by
  simp only [mulVecStep, BitVec.getLsbD_xor, ite_xor_xor]

theorem mulVec_xor (x : Mat) (v v' : Word) : mulVec x (v ^^^ v') = mulVec x v ^^^ mulVec x v' := by
  have hfold : ∀ (l : List (Fin 32)) (r r' : Word),
      l.foldl (mulVecStep x (v ^^^ v')) (r ^^^ r') =
        l.foldl (mulVecStep x v) r ^^^ l.foldl (mulVecStep x v') r' := by
    intro l
    induction l with
    | nil => intro r r'; rfl
    | cons i l ih => intro r r'; simp only [List.foldl_cons, mulVecStep_xor, ih]
  exact hfold _ 0#32 0#32

/-- A linear map of words takes a combination of the words of `x` to that of their images. -/
theorem map_mulVec {f : Word → Word} (hf : ∀ a b, f (a ^^^ b) = f a ^^^ f b) (x : Mat) (v : Word) :
    f (mulVec x v) = mulVec (Mat.ofFn fun i => f (x.get i)) v := by
  have hzero : f 0#32 = 0#32 := by simpa using hf 0#32 0#32
  have hstep (r : Word) (i : Fin 32) :
      f (mulVecStep x v r i) = mulVecStep (Mat.ofFn fun i => f (x.get i)) v (f r) i := by
    simp only [mulVecStep, Mat.get_ofFn, apply_ite f, hf]
  have hfold := List.foldl_hom f (l := List.finRange 32) (init := 0#32) fun r i => (hstep r i).symm
  rw [mulVec_eq_foldl, mulVec_eq_foldl, ← hfold, hzero]

/-- Bit `j` of a combination is the XOR of the bits `j` of its words (R136). -/
theorem getLsbD_foldl_mulVecStep (x : Mat) (v r : Word) (j : Nat) (l : List (Fin 32)) :
    (l.foldl (mulVecStep x v) r).getLsbD j =
      l.foldl (fun b i => b ^^ (v.getLsbD i.val && (x.get i).getLsbD j)) (r.getLsbD j) := by
  refine (List.foldl_hom (BitVec.getLsbD · j) fun r i => ?_).symm
  simp only [mulVecStep]
  cases v.getLsbD i.val <;> simp

theorem getLsbD_basis (i j : Fin 32) : (basis i).getLsbD j.val = decide (i = j) := by
  revert i j
  decide

/-- A sum with one term that counts: the one at `j`, if `j` is in the list. -/
theorem foldl_xor_single {α : Type} [DecidableEq α] (g : α → Bool) (j : α) {l : List α}
    (hl : l.Nodup) (b : Bool) :
    l.foldl (fun b i => b ^^ (g i && decide (i = j))) b = (b ^^ (decide (j ∈ l) && g j)) := by
  induction l generalizing b with
  | nil => simp
  | cons i l ih =>
    obtain ⟨hi, hl⟩ := List.nodup_cons.mp hl
    rw [List.foldl_cons, ih hl]
    by_cases h : i = j
    · subst h
      simp [hi]
    · simp [h, Ne.symm h]

/-- The identity matrix, whose words are the basis vectors, leaves every vector. -/
theorem mulVec_basis (v : Word) : mulVec (Mat.ofFn basis) v = v := by
  apply BitVec.eq_of_getLsbD_eq
  intro j hj
  have hbasis (i : Fin 32) : (basis i).getLsbD j = decide (i = ⟨j, hj⟩) := getLsbD_basis i ⟨j, hj⟩
  simp only [mulVec_eq_foldl, getLsbD_foldl_mulVecStep, Mat.get_ofFn, hbasis]
  rw [foldl_xor_single (fun i : Fin 32 => v.getLsbD i.val) ⟨j, hj⟩ (List.nodup_finRange 32)]
  simp

/-- A linear map of words is the product with the matrix of the images of the basis. -/
theorem mulVec_ofFn_basis {f : Word → Word} (hf : ∀ a b, f (a ^^^ b) = f a ^^^ f b) (v : Word) :
    mulVec (Mat.ofFn fun i => f (basis i)) v = f v := by
  have := map_mulVec hf (Mat.ofFn basis) v
  simpa only [mulVec_basis, Mat.get_ofFn] using this.symm

/-- `MulVec(MBuild(t), p)` is the pass over the bytes of `p` and `t` zeros (R133). -/
theorem mulVec_mBuild (t : Nat) (p : Word) : mulVec (mBuild t) p = zAdv (raw 0#32 (le4 p)) t := by
  refine mulVec_ofFn_basis (f := fun p => zAdv (raw 0#32 (le4 p)) t) (fun a b => ?_) p
  simp only [← zAdv_xor, ← raw_le4_xor, BitVec.xor_self]

/-! ### The CRC of a patched buffer (R166) -/

theorem le4_eq_map_byteOf (p : Word) : le4 p = (List.range 4).map (byteOf p) := rfl

/-- The buffer with a patch word is what stands before the field, the word, and what stands after it
(R162). -/
theorem State.patchedBytes_eq_append {s : State} {off : Nat} (h : off + 4 ≤ s.size.toNat) :
    ∃ pre post : List Byte, post.length = s.trailing off ∧
      ∀ p, s.patchedBytes off p = pre ++ (le4 p ++ post) := by
  have hsize : s.size.toNat = off + (4 + s.trailing off) := by
    simp only [State.trailing]
    omega
  refine ⟨(List.range off).map fun k => s.mem.read (s.addr.toNat + k),
    (List.range (s.trailing off)).map fun k => s.mem.read (s.addr.toNat + (off + (4 + k))),
    by simp, fun p => ?_⟩
  simp only [State.patchedBytes, hsize, List.range_add, List.map_append, List.map_map,
    le4_eq_map_byteOf]
  congr 1
  · refine List.map_congr_left fun k hk => if_neg ?_
    have := List.mem_range.mp hk
    omega
  · congr 1
    · refine List.map_congr_left fun k hk => ?_
      have := List.mem_range.mp hk
      simp only [Function.comp]
      rw [if_pos (by omega), Nat.add_sub_cancel_left]
    · refine List.map_congr_left fun k _ => if_neg ?_
      simp only [Function.comp]
      omega

theorem State.baseBytes_eq_patchedBytes (s : State) (off : Nat) :
    s.baseBytes off = s.patchedBytes off 0#32 := by
  simp only [State.baseBytes, State.patchedBytes, byteOf, BitVec.extractLsb'_zero]

/-- R166: the patch word enters the CRC through the matrix of the trailing length. -/
theorem State.crc32_patchedBytes {s : State} {off : Nat} (h : off + 4 ≤ s.size.toNat) (p : Word) :
    crc32 (s.patchedBytes off p) =
      crc32 (s.baseBytes off) ^^^ mulVec (mBuild (s.trailing off)) p := by
  obtain ⟨pre, post, hlen, hsplit⟩ := State.patchedBytes_eq_append h
  have hword (a : Word) : raw a (le4 p) = raw a (le4 0#32) ^^^ raw 0#32 (le4 p) := by
    rw [← raw_le4_xor, BitVec.xor_zero, BitVec.zero_xor]
  rw [State.baseBytes_eq_patchedBytes, hsplit, hsplit, mulVec_mBuild, ← hlen]
  simp only [crc32, raw_append]
  rw [hword, raw_xor]
  ac_rfl

/-! ### The elimination (R134, R135) -/

theorem mulVec_basis_right (x : Mat) (i : Fin 32) : mulVec x (basis i) = x.get i := by
  apply BitVec.eq_of_getLsbD_eq
  intro j _
  simp only [mulVec_eq_foldl, getLsbD_foldl_mulVecStep, getLsbD_basis]
  have := foldl_xor_single (fun k : Fin 32 => (x.get k).getLsbD j) i (List.nodup_finRange 32)
    false
  simpa [Bool.and_comm, eq_comm] using this

theorem pivotRow_eq_some {w : Mat} {c p : Fin 32} (h : pivotRow w c = some p) :
    c ≤ p ∧ (w.get p).getLsbD c.val = true := by
  simpa using List.find?_some h

theorem swapRows_get (m : Mat) (i j r : Fin 32) :
    (swapRows m i j).get r = m.get (Equiv.swap i j r) := by
  simp only [swapRows, Mat.get_ofFn, Equiv.swap_apply_def, apply_ite m.get]

theorem addRow_get (hit : Fin 32 → Bool) (m : Mat) (c r : Fin 32) :
    (addRow hit m c).get r = if hit r then m.get r ^^^ m.get c else m.get r := by
  simp only [addRow, Mat.get_ofFn]

/-- The working arrays of `GF2Invert(a)` while the columns `cs` are still to be eliminated: each row
of `b` tells which words of `a` XOR to that row of `w`, and every column of `w` that is not in `cs` is
one of the identity. -/
structure Eliminated (a : Mat) (cs : List (Fin 32)) (w b : Mat) : Prop where
  combines : ∀ r, mulVec a (b.get r) = w.get r
  cleared : ∀ c, c ∉ cs → ∀ r, (w.get r).getLsbD c.val = decide (r = c)

theorem Eliminated.start (a : Mat) : Eliminated a (List.finRange 32) a (Mat.ofFn basis) where
  combines r := by rw [Mat.get_ofFn, mulVec_basis_right]
  cleared c h := absurd (List.mem_finRange c) h

/-- A swap of two rows that are still to be used keeps the cleared columns. -/
theorem Eliminated.swap {a w b : Mat} {cs : List (Fin 32)} {c p : Fin 32}
    (h : Eliminated a cs w b) (hc : c ∈ cs) (hp : p ∈ cs) :
    Eliminated a cs (swapRows w c p) (swapRows b c p) where
  combines r := by rw [swapRows_get, swapRows_get, h.combines]
  cleared d hd r := by
    have hswap : Equiv.swap c p d = d :=
      Equiv.swap_apply_of_ne_of_ne (fun hdc => hd (hdc ▸ hc)) (fun hdp => hd (hdp ▸ hp))
    rw [swapRows_get, h.cleared d hd]
    simp only [Equiv.swap_apply_eq_iff, hswap]

/-- With a pivot in row `c`, adding row `c` to the rows with the bit set clears column `c` and keeps
the columns cleared before. -/
theorem Eliminated.clear {a w b : Mat} {c : Fin 32} {cs : List (Fin 32)}
    (h : Eliminated a (c :: cs) w b) (hpivot : (w.get c).getLsbD c.val = true) :
    Eliminated a cs (addRow (hasBit w c) w c) (addRow (hasBit w c) b c) where
  combines r := by
    simp only [addRow_get, apply_ite (mulVec a), mulVec_xor, h.combines]
  cleared d hd r := by
    rw [addRow_get, apply_ite (BitVec.getLsbD · d.val), BitVec.getLsbD_xor, hasBit]
    by_cases hdc : d = c
    · subst hdc
      by_cases hr : r = d
      · simp [hr, hpivot]
      · cases hbit : (w.get r).getLsbD d.val <;> simp [hr, hpivot]
    · have hd' : d ∉ c :: cs := by simp [hdc, hd]
      rw [h.cleared d hd', h.cleared d hd', decide_eq_false (Ne.symm hdc), Bool.xor_false, ite_self]

theorem Eliminated.finish {a : Mat} {cs : List (Fin 32)} (hcs : cs <:+ List.finRange 32)
    {w b w' b' : Mat} (h : Eliminated a cs w b) (hrun : elimColumns cs w b = some (w', b')) :
    Eliminated a [] w' b' := by
  induction cs generalizing w b with
  | nil =>
    cases hrun
    exact h
  | cons c cs ih =>
    simp only [elimColumns, elimColumn] at hrun
    cases hp : pivotRow w c with
    | none => simp [hp] at hrun
    | some p =>
      simp only [hp] at hrun
      obtain ⟨hle, hbit⟩ := pivotRow_eq_some hp
      have hmem : p ∈ c :: cs := by
        obtain ⟨before, hsplit⟩ := hcs
        have hsorted := List.pairwise_lt_finRange 32
        have hpin := List.mem_finRange p
        rw [← hsplit] at hsorted hpin
        refine (List.mem_append.mp hpin).resolve_left fun hb => ?_
        have := (List.pairwise_append.mp hsorted).2.2 p hb c List.mem_cons_self
        omega
      refine ih ((List.suffix_cons c cs).trans hcs)
        ((h.swap List.mem_cons_self hmem).clear ?_) hrun
      rwa [swapRows_get, Equiv.swap_apply_left]

/-- An inverse that the elimination finds undoes the matrix (R135). -/
theorem mulVec_of_gf2Invert {a b : Mat} (h : gf2Invert a = some b) (v : Word) :
    mulVec a (mulVec b v) = v := by
  obtain ⟨⟨w, b'⟩, hrun, rfl⟩ := Option.map_eq_some_iff.mp h
  have hend := (Eliminated.start a).finish List.suffix_rfl hrun
  have hrows (r : Fin 32) : mulVec a (b'.get r) = basis r := by
    rw [hend.combines]
    apply BitVec.eq_of_getLsbD_eq
    intro j hj
    have hcol := hend.cleared ⟨j, hj⟩ List.not_mem_nil r
    rwa [← getLsbD_basis] at hcol
  simp only [map_mulVec (mulVec_xor a), hrows, mulVec_basis]

end Sys2Proof.Machine
end

section
/-! PROOFS. The statements of the family `20_memory.md`: which bytes a command stores (R64, R70), the
host's memory port (R78), what one host action can do (R190), and the invariant every step keeps. -/

namespace Sys2Proof.Machine

/-! ### What the compensator leaves in memory (R70, R163) -/

theorem State.afterWrite_mem (s : State) (off : Nat) (b : Mat) :
    (s.afterWrite off b).mem =
      s.mem.writeBytes (s.addr.toNat + off)
        (le4 (mulVec b (s.target ^^^ crc32 (s.baseBytes off)))) := rfl

@[simp] theorem length_le4 (w : Word) : (le4 w).length = 4 := rfl

/-- After a store of four bytes from `a` on, address `a + k` holds byte `k` of the word (R64). -/
theorem Memory.read_writeBytes_le4 {m : Memory} {a k : Nat} {w : Word} (h : k < 4) :
    (m.writeBytes a (le4 w)).read (a + k) = byteOf w k := by
  rw [Memory.read_writeBytes_inside (by simpa using h)]
  simp only [le4_eq_map_byteOf, List.getElem_map, List.getElem_range]

/-- Step 7 makes the buffer the patched one of R166. -/
theorem State.bufferBytes_afterWrite (s : State) (off : Nat) (b : Mat) :
    (s.afterWrite off b).bufferBytes =
      s.patchedBytes off (mulVec b (s.target ^^^ crc32 (s.baseBytes off))) := by
  simp only [State.bufferBytes, State.patchedBytes, State.afterWrite_size, State.afterWrite_addr,
    State.afterWrite_mem]
  refine List.map_congr_left fun k _ => ?_
  split
  · rw [show s.addr.toNat + k = s.addr.toNat + off + (k - off) by omega,
      Memory.read_writeBytes_le4 (by omega)]
  · rw [Memory.read_writeBytes_outside (by rw [length_le4]; omega)]

/-- R168: the pass over the patched buffer always gives the target. -/
theorem State.afterVerify_result_eq_target {s : State} {off : Nat} {b : Mat}
    (hoff : off + 4 ≤ s.size.toNat) (hinv : gf2Invert (mBuild (s.trailing off)) = some b) :
    (s.afterVerify off b).result = s.target := by
  rw [State.afterVerify_result, State.bufferBytes_afterWrite, State.crc32_patchedBytes hoff,
    mulVec_of_gf2Invert hinv, BitVec.xor_comm s.target, ← BitVec.xor_assoc, BitVec.xor_self,
    BitVec.zero_xor]

/-- A compensation leaves memory as it was, or succeeds and stores one word in the patch field, which
lies in memory. -/
theorem CompensationEnds.mem_cases {off : Nat} {s t : State} (h : CompensationEnds off s t) :
    t.mem = s.mem ∨
      (t.status.err = none ∧ s.addr.toNat + off + 4 ≤ s.cfg.memBytes ∧
        ∃ p, t.mem = s.mem.writeBytes (s.addr.toNat + off) (le4 p)) := by
  cases h with
  | invalidOffset | addrRange | unsolvable => exact .inl rfl
  | verified hoff hmem => exact .inr ⟨rfl, by omega, _, rfl⟩
  | mismatch hoff _ hinv hres => exact absurd (State.afterVerify_result_eq_target hoff hinv) hres

/-- The two checks of a compensation, each with its own error (R61, R161, R216). -/
theorem CompensationEnds.error_iff {off : Nat} {s t : State} (h : CompensationEnds off s t) :
    (t.status.err = some .invalidOffset ↔ s.size.toNat < off + 4) ∧
      (t.status.err = some .addrRange ↔
        off + 4 ≤ s.size.toNat ∧ s.cfg.memBytes < s.addr.toNat + s.size.toNat) := by
  cases h <;> simp <;> omega

theorem State.patchOffset_compT (s : State) : s.patchOffset .compT = s.size.toNat - 4 := by
  simp only [State.patchOffset, State.tailOffset]
  split
  · simp only [Option.getD_none]
    omega
  · rfl

/-- A command leaves memory as it was, or it is `comp` or `comp.t`, succeeds, and stores one word in
the patch field, which lies in memory (R70). -/
theorem CommandEnds.mem_cases {i : Instr} {s t : State} (h : CommandEnds s i t) :
    t.mem = s.mem ∨
      ((i = .comp ∨ i = .compT) ∧ t.status.err = none ∧
        s.addr.toNat + s.patchOffset i + 4 ≤ s.cfg.memBytes ∧
        ∃ p, t.mem = s.mem.writeBytes (s.addr.toNat + s.patchOffset i) (le4 p)) := by
  cases h with
  | comp hc => exact hc.mem_cases.imp_right fun hw => ⟨.inl rfl, hw⟩
  | compT hc =>
    rw [State.patchOffset_compT]
    exact hc.mem_cases.imp_right fun hw => ⟨.inr rfl, hw⟩
  | _ => exact .inl rfl

/-- Every command writes `STATUS` last, by success or by `raise` (R214). -/
theorem CommandEnds.status_cases {i : Instr} {s t : State} (h : CommandEnds s i t) :
    t.status = s.status.succeed ∨ ∃ e, t.status = s.status.failWith e := by
  cases h with
  | comp hc | compT hc =>
    cases hc with
    | verified => exact .inl rfl
    | _ => exact .inr ⟨_, rfl⟩
  | crcAddrRange | minvUnsolvable => exact .inr ⟨_, rfl⟩
  | _ => exact .inl rfl

/-! ### What a host action can do (R190) -/

/-- `t` is `s` but for the operand registers and `MAT`, which the host may write (R192). -/
def State.SameButOperands (s t : State) : Prop :=
  t = { s with
    addr := t.addr, size := t.size, target := t.target, offset := t.offset, vec := t.vec
    count := t.count, mat := t.mat }

/-- A register write runs a command when it is to `CMD`, and otherwise moves operand registers only
(R192, R193, R194). -/
theorem regStore_cases (r : Reg) (v : Word) (s : State) :
    regStore r v s = runCommand v s ∨ ∃ t, regStore r v s = .next t ∧ s.SameButOperands t := by
  cases r with
  | cmd => exact .inl rfl
  | _ => exact .inr ⟨_, rfl, rfl⟩

/-- The next state `t` of the host action `a` in the state `s`: one constructor for each way. -/
inductive ActionEnds (s : State) : HostAction → State → Prop
  | regRead (k : WinIndex) : ActionEnds s (.regRead k) (s.respond (.word (regValue (regAt k) s)))
  | command {k : WinIndex} {w : Word} {i : Instr} {t : State}
      (hexec : exec i (s.putCmd w) = .next t) : ActionEnds s (.regWrite k w) t
  | illegal (k : WinIndex) (w : Word) :
      ActionEnds s (.regWrite k w) ((s.putCmd w).raise .illegalCommand)
  | operands {k : WinIndex} {v : Word} {t : State} (hsame : s.SameButOperands t) :
      ActionEnds s (.regWrite k v) t
  | memRead (a : BitVec 32) : ActionEnds s (.memRead a) (s.respond (.byte (s.mem.read a.toNat)))
  | memWrite {a : BitVec 32} (v : Byte) (ha : a.toNat < s.cfg.memBytes) :
      ActionEnds s (.memWrite a v) (s.putMem (s.mem.write a.toNat v))
  | reset : ActionEnds s .reset s.resetRegisters

theorem hostRead_of_lt {s : State} {a : BitVec 32} (h : a.toNat < s.cfg.memBytes) :
    hostRead a s = .next (s.respond (.byte (s.mem.read a.toNat))) := by
  simp only [hostRead, State.memRead_of_lt h]

theorem hostWrite_of_lt {s : State} {a : BitVec 32} (v : Byte) (h : a.toNat < s.cfg.memBytes) :
    hostWrite a v s = .next (s.putMem (s.mem.write a.toNat v)) := by
  simp only [hostWrite, State.memWrite_of_lt v h]

theorem lt_of_hostRead {s t : State} {a : BitVec 32} (h : hostRead a s = .next t) :
    a.toNat < s.cfg.memBytes := by
  by_contra hge
  simp only [hostRead, State.memRead_of_ge (Nat.not_lt.mp hge)] at h
  cases h

theorem lt_of_hostWrite {s t : State} {a : BitVec 32} {v : Byte} (h : hostWrite a v s = .next t) :
    a.toNat < s.cfg.memBytes := by
  by_contra hge
  simp only [hostWrite, State.memWrite_of_ge v (Nat.not_lt.mp hge)] at h
  cases h

theorem ActionEnds.of_hostAct {a : HostAction} {s t : State} (h : hostAct a s = .next t) :
    ActionEnds s a t := by
  cases a with
  | regRead k =>
    cases h
    exact .regRead k
  | regWrite k v =>
    rw [hostAct] at h
    obtain hrun | ⟨t', hstore, hsame⟩ := regStore_cases (regAt k) v s
    · rw [hrun] at h
      obtain ⟨i, -, hexec⟩ | hillegal := runCommand_cases v s
      · exact .command (hexec.symm.trans h)
      · cases hillegal.symm.trans h
        exact .illegal k v
    · cases hstore.symm.trans h
      exact .operands hsame
  | memRead a =>
    cases (hostRead_of_lt (lt_of_hostRead h)).symm.trans h
    exact .memRead a
  | memWrite a v =>
    have ha := lt_of_hostWrite h
    cases (hostWrite_of_lt v ha).symm.trans h
    exact .memWrite v ha
  | reset =>
    cases h
    exact .reset

/-- No host action changes the configuration or the actions still to come (R20, R73). -/
theorem ActionEnds.cfg_pending {a : HostAction} {s t : State} (h : ActionEnds s a t) :
    t.cfg = s.cfg ∧ t.pending = s.pending := by
  cases h with
  | command hexec =>
    obtain ⟨-, -, -, -, -, -, -, hcfg, hpending, -⟩ := engineNeverWritesOperands _ _ _ hexec
    exact ⟨hcfg, hpending⟩
  | operands hsame =>
    rw [hsame]
    exact ⟨rfl, rfl⟩
  | _ => exact ⟨rfl, rfl⟩

/-! ### The invariant -/

theorem Status.coherent_succeed (st : Status) : st.succeed.coherent = true := by
  simp [Status.coherent]

theorem Status.coherent_failWith (st : Status) (e : ErrorKind) :
    (st.failWith e).coherent = true := by
  simp [Status.coherent]

theorem State.memWf_iff {s : State} :
    s.memWf = true ↔ s.mem.wf = true ∧ s.mem.within s.cfg = true := by
  rw [State.memWf, Bool.and_eq_true]

theorem State.freshIfNotDone_of_done {s : State} (h : s.status.done = true) :
    s.freshIfNotDone = true := by
  simp [State.freshIfNotDone, h]

/-- A command writes memory in its canonical form, and only where memory exists. -/
theorem memWf_of_exec {i : Instr} {s t : State} (h : exec i s = .next t) (hs : s.memWf = true) :
    t.memWf = true := by
  obtain ⟨-, -, -, -, -, -, -, hcfg, -⟩ := engineNeverWritesOperands i s t h
  rw [State.memWf_iff] at hs ⊢
  obtain ⟨hwf, hin⟩ := hs
  rw [hcfg]
  obtain hmem | ⟨-, -, hfield, p, hmem⟩ := (CommandEnds.of_exec h).mem_cases <;> rw [hmem]
  · exact ⟨hwf, hin⟩
  · exact ⟨Memory.wf_writeBytes _ hwf, Memory.within_writeBytes hin hfield⟩

/-- The state after a command meets the invariant if memory did before: `STATUS` is written anew and
`DONE` is 1. -/
theorem inv_of_exec {i : Instr} {s t : State} (h : exec i s = .next t) (hs : s.memWf = true) :
    t.Inv := by
  obtain hst | ⟨e, hst⟩ := (CommandEnds.of_exec h).status_cases
  · exact ⟨memWf_of_exec h hs, hst ▸ Status.coherent_succeed _,
      State.freshIfNotDone_of_done (by rw [hst, Status.succeed_done])⟩
  · exact ⟨memWf_of_exec h hs, hst ▸ Status.coherent_failWith _ e,
      State.freshIfNotDone_of_done (by rw [hst, Status.failWith_done])⟩

/-- Every host action keeps the invariant. -/
theorem ActionEnds.inv {a : HostAction} {s t : State} (h : ActionEnds s a t) (hs : s.Inv) :
    t.Inv := by
  obtain ⟨hmem, hstatus, hfresh⟩ := hs
  cases h with
  | regRead | memRead => exact ⟨hmem, hstatus, hfresh⟩
  | command hexec => exact inv_of_exec hexec hmem
  | illegal => exact ⟨hmem, Status.coherent_failWith s.status _, State.freshIfNotDone_of_done rfl⟩
  | operands hsame =>
    rw [hsame]
    exact ⟨hmem, hstatus, hfresh⟩
  | memWrite v ha =>
    obtain ⟨hwf, hin⟩ := State.memWf_iff.mp hmem
    exact ⟨State.memWf_iff.mpr ⟨Memory.wf_write _ v hwf, Memory.within_write v hin ha⟩, hstatus,
      hfresh⟩
  | reset =>
    obtain ⟨hwf, hin⟩ := State.memWf_iff.mp hmem
    exact State.powerOn_inv hwf hin

end Sys2Proof.Machine

open Sys2Proof Sys2Proof.Machine

/-! ### The statements settled -/

/-- Settles O35: a step is one host action, and taking it off the queue touches nothing of the
invariant. -/
theorem stepKeepsTheInvariant : Obligations.StepKeepsTheInvariant := by
  intro s t hs h
  cases hp : s.pending with
  | nil =>
    cases (step_of_nil hp).symm.trans h
    exact hs
  | cons a rest =>
    rw [step_of_cons hp] at h
    have hs' : (s.takeAction rest).Inv := hs
    exact (ActionEnds.of_hostAct h).inv hs'

/-- Settles O7: the step is the action at the head of the queue, which touches neither the rest of it
nor the configuration. -/
theorem stepTakesOneHostAction : Obligations.StepTakesOneHostAction := by
  refine ⟨fun s a rest hp => step_of_cons hp, fun s t h => ?_⟩
  cases hp : s.pending with
  | nil =>
    cases (step_of_nil hp).symm.trans h
    exact ⟨hp, rfl⟩
  | cons a rest =>
    rw [step_of_cons hp] at h
    exact (ActionEnds.of_hostAct h).cfg_pending.symm

/-- Settles O11, by reading after one write. -/
theorem hostMemoryPortReadsAndWrites : Obligations.HostMemoryPortReadsAndWrites := by
  intro s a v ha
  exact ⟨hostRead_of_lt ha, s.mem.write a.toNat v, hostWrite_of_lt v ha, Memory.read_write_self _ _ _,
    fun _ hb => Memory.read_write_other _ v hb, Memory.wf_write _ v⟩

/-- Settles O24: each way a command ends carries the checks that led to it. -/
theorem offsetAndRangeErrorsExactly : Obligations.OffsetAndRangeErrorsExactly := by
  refine ⟨fun s t h => ?_, fun s t h => ?_, fun s t h => ?_⟩
  · cases CommandEnds.of_exec h with
    | crc hmem => exact iff_of_false (by simp) (Nat.not_lt.mpr hmem)
    | crcAddrRange hmem => exact iff_of_true rfl hmem
  · cases CommandEnds.of_exec h with
    | comp hc => exact hc.error_iff
  · cases CommandEnds.of_exec h with
    | compT hc =>
      rw [hc.error_iff.1, hc.error_iff.2]
      omega

/-- Settles O33: only a successful compensation writes, and only in its patch field. -/
theorem memoryFrameOfCommands : Obligations.MemoryFrameOfCommands := by
  intro i s t h
  obtain ⟨-, hsize, -⟩ := engineNeverWritesOperands i s t h
  refine ⟨hsize, ?_⟩
  obtain hmem | ⟨hi, herr, -, p, hmem⟩ := (CommandEnds.of_exec h).mem_cases <;> rw [hmem]
  · exact ⟨fun _ _ => rfl, fun _ _ => rfl, fun _ _ => rfl⟩
  · refine ⟨fun hno => ?_, fun hno => absurd herr hno, fun a ha => ?_⟩
    · exact absurd hi (not_or.mpr hno)
    · exact Memory.read_writeBytes_outside ha

/-- Settles O41: the four byte writes are to four addresses that exist. -/
theorem wordIsStoredLittleEndian : Obligations.WordIsStoredLittleEndian := by
  intro s a v ha
  exact ⟨s.mem.writeBytes a (le4 v), State.memWrite4_of_lt v ha,
    fun _ hk => Memory.read_writeBytes_le4 hk, fun _ hb => Memory.read_writeBytes_outside hb⟩

/-- Settles O42: the pass sees the buffer's bytes only, and the range check sees none. -/
theorem crcDependsOnlyOnItsBuffer : Obligations.CrcDependsOnlyOnItsBuffer := by
  intro s t m hagree h
  have hbytes : (s.putMem m).bufferBytes = s.bufferBytes :=
    List.map_congr_left fun k hk => hagree k (List.mem_range.mp hk)
  change execCrc s = .next t at h
  change execCrc (s.putMem m) = .next (t.putMem m)
  obtain ⟨hin, hs⟩ | ⟨hout, hs⟩ := execCrc_cases s
  · cases hs.symm.trans h
    obtain ⟨-, hm⟩ | ⟨hout, -⟩ := execCrc_cases (s.putMem m)
    · rw [hm, hbytes]
      rfl
    · exact absurd hin (Nat.not_le.mpr hout)
  · cases hs.symm.trans h
    obtain ⟨hin, -⟩ | ⟨-, hm⟩ := execCrc_cases (s.putMem m)
    · exact absurd hin (Nat.not_le.mpr hout)
    · exact hm
end

section
/-! PROOFS. The statements of the family `30_encoding.md`: a command word is its fields (R81), each
command has one word (R82, R88), and the legal words are those nine (R85, R91). -/

namespace Sys2Proof

/-! ### The fields of a word (R81) -/

/-- A word is its five fields, high bits first (R81). -/
theorem append_fields (w : Word) :
    fieldZ1 w ++ BitVec.ofBool (fieldM w) ++ BitVec.ofBool (fieldT w) ++ fieldZ0 w ++ fieldOpc w =
      w := by
  apply BitVec.eq_of_getLsbD_eq
  intro i hi
  simp only [fieldZ1, fieldM, fieldT, fieldZ0, fieldOpc, BitVec.getLsbD_append,
    BitVec.getLsbD_ofBool, BitVec.getLsbD_extractLsb']
  grind

theorem eq_of_fields {w v : Word} (hz1 : fieldZ1 w = fieldZ1 v) (hm : fieldM w = fieldM v)
    (ht : fieldT w = fieldT v) (hz0 : fieldZ0 w = fieldZ0 v) (hopc : fieldOpc w = fieldOpc v) :
    w = v := by
  rw [← append_fields w, hz1, hm, ht, hz0, hopc, append_fields]

/-- A word with both reserved fields 0 is what the other fields make of it. -/
theorem eq_commandWord {w : Word} (hz0 : fieldZ0 w = 0#4) (hz1 : fieldZ1 w = 0#22) :
    w = commandWord (fieldOpc w) (fieldT w) (fieldM w) := by
  rw [commandWord, ← hz0, ← hz1, append_fields]

/-! ### The decoder and the encoder are inverse (R88) -/

theorem decodePlain_eq_ok {w : Word} {i j : Instr} (h : decodePlain w i = .ok j) :
    fieldT w = false ∧ fieldM w = false ∧ i = j := by
  unfold decodePlain at h
  split_ifs at h with ht hm
  exact ⟨Bool.eq_false_of_not_eq_true ht, Bool.eq_false_of_not_eq_true hm, Except.ok.inj h⟩

theorem decodeMvmul_eq_ok {w : Word} {j : Instr} (h : decodeMvmul w = .ok j) :
    fieldT w = false ∧ (if fieldM w then .mvmulM else .mvmul) = j := by
  unfold decodeMvmul at h
  split at h
  case isTrue => cases h
  case isFalse ht => exact ⟨Bool.eq_false_of_not_eq_true ht, Except.ok.inj h⟩

theorem decodeComp_eq_ok {w : Word} {j : Instr} (h : decodeComp w = .ok j) :
    fieldM w = false ∧ (if fieldT w then .compT else .comp) = j := by
  unfold decodeComp at h
  split at h
  case isTrue => cases h
  case isFalse hm => exact ⟨Bool.eq_false_of_not_eq_true hm, Except.ok.inj h⟩

theorem encode_mvmul_ite (m : Bool) :
    encode (if m then .mvmulM else .mvmul) = commandWord 5#4 false m := by
  cases m <;> rfl

theorem encode_comp_ite (t : Bool) :
    encode (if t then .compT else .comp) = commandWord 6#4 t false := by
  cases t <;> rfl

/-- A word that the decoder takes has both reserved fields 0 and the opcode and flags of the command
it is taken for. -/
theorem eq_encode_of_decode {w : Word} {i : Instr} (h : decode w = .ok i) : w = encode i := by
  unfold decode at h
  split_ifs at h with hz0 hz1
  rw [eq_commandWord (not_not.mp hz0) (not_not.mp hz1)]
  have hopc {n : Nat} (hn : (fieldOpc w).toNat = n) : fieldOpc w = BitVec.ofNat 4 n := by
    rw [← hn, BitVec.ofNat_toNat, BitVec.setWidth_eq]
  have hplain {n : Nat} {j : Instr} (hn : (fieldOpc w).toNat = n) (h : decodePlain w j = .ok i)
      (hj : encode j = commandWord (BitVec.ofNat 4 n) false false) :
      commandWord (fieldOpc w) (fieldT w) (fieldM w) = encode i := by
    obtain ⟨ht, hm, rfl⟩ := decodePlain_eq_ok h
    rw [ht, hm, hopc hn, hj]
  split at h
  case h_1 hn | h_2 hn | h_3 hn | h_4 hn | h_5 hn => exact hplain hn h rfl
  case h_6 hn =>
    obtain ⟨ht, rfl⟩ := decodeMvmul_eq_ok h
    rw [ht, hopc hn, encode_mvmul_ite]
  case h_7 hn =>
    obtain ⟨hm, rfl⟩ := decodeComp_eq_ok h
    rw [hm, hopc hn, encode_comp_ite]
  case h_8 => cases h

theorem roundTrip (i : Instr) : Laws.RoundTrip.Statement i := by
  cases i with
  | nop => exact Laws.RoundTrip.nop
  | crc => exact Laws.RoundTrip.crc
  | zadv => exact Laws.RoundTrip.zadv
  | mbuild => exact Laws.RoundTrip.mbuild
  | minv => exact Laws.RoundTrip.minv
  | mvmul => exact Laws.RoundTrip.mvmul
  | mvmulM => exact Laws.RoundTrip.mvmulM
  | comp => exact Laws.RoundTrip.comp
  | compT => exact Laws.RoundTrip.compT

/-- R88: a command's word is the one word that decodes to it. -/
theorem decode_eq_ok_iff {w : Word} {i : Instr} : decode w = .ok i ↔ w = encode i := by
  refine ⟨eq_encode_of_decode, ?_⟩
  rintro rfl
  exact (roundTrip i).2

/-! ### The four conditions of legality (R85) -/

theorem reservedBitsClear_iff {w : Word} :
    reservedBitsClear w = true ↔ fieldZ0 w = 0#4 ∧ fieldZ1 w = 0#22 := by
  have hz0 : fieldZ0 (w &&& 0xFFFFFCF0#32) = fieldZ0 w := by
    rw [fieldZ0, BitVec.extractLsb'_and]
    exact BitVec.and_allOnes
  have hz1 : fieldZ1 (w &&& 0xFFFFFCF0#32) = fieldZ1 w := by
    rw [fieldZ1, BitVec.extractLsb'_and]
    exact BitVec.and_allOnes
  rw [reservedBitsClear, beq_iff_eq]
  constructor
  · intro h
    rw [← hz0, ← hz1, h]
    exact ⟨rfl, rfl⟩
  · rintro ⟨h0, h1⟩
    refine eq_of_fields (hz1.trans h1) ?_ ?_ (hz0.trans h0) ?_
    · simp [fieldM]
    · simp [fieldT]
    · rw [fieldOpc, BitVec.extractLsb'_and]
      exact BitVec.and_zero

/-- The mask `0xF` leaves the field `OPC`. -/
theorem and_low_eq (w : Word) : w &&& 0xF#32 = (fieldOpc w).setWidth 32 := by
  have hmod : w.toNat &&& 15 = w.toNat % 16 := Nat.and_two_pow_sub_one_eq_mod w.toNat 4
  apply BitVec.eq_of_toNat_eq
  rw [BitVec.toNat_setWidth_of_le (by decide), fieldOpc, BitVec.extractLsb'_toNat,
    Nat.shiftRight_zero]
  exact hmod

theorem and_low_eq_iff {w : Word} (n : BitVec 4) :
    w &&& 0xF#32 = n.setWidth 32 ↔ fieldOpc w = n := by
  rw [and_low_eq]
  bv_omega

theorem opcodeAssigned_iff {w : Word} : opcodeAssigned w = true ↔ (fieldOpc w).toNat ≤ 6 := by
  rw [opcodeAssigned, decide_eq_true_iff, and_low_eq, BitVec.toNat_setWidth_of_le (by decide)]

theorem tailFlagLegal_iff {w : Word} :
    tailFlagLegal w = true ↔ fieldT w = false ∨ fieldOpc w = 6#4 := by
  simp only [tailFlagLegal, Bool.or_eq_true, Bool.not_eq_true', beq_iff_eq, ← and_low_eq_iff]
  rfl

theorem matFlagLegal_iff {w : Word} :
    matFlagLegal w = true ↔ fieldM w = false ∨ fieldOpc w = 5#4 := by
  simp only [matFlagLegal, Bool.or_eq_true, Bool.not_eq_true', beq_iff_eq, ← and_low_eq_iff]
  rfl

/-- R85: the four conditions, on the fields. -/
theorem legalCommandWord_iff {w : Word} :
    legalCommandWord w = true ↔
      (fieldZ0 w = 0#4 ∧ fieldZ1 w = 0#22) ∧ (fieldOpc w).toNat ≤ 6 ∧
        (fieldT w = false ∨ fieldOpc w = 6#4) ∧ (fieldM w = false ∨ fieldOpc w = 5#4) := by
  simp only [legalCommandWord, Bool.and_eq_true, and_assoc, reservedBitsClear_iff,
    opcodeAssigned_iff, tailFlagLegal_iff, matFlagLegal_iff]

/-! ### The legal words -/

/-- Opcodes 0 to 4 are those of a command without a flag. -/
theorem exists_commandWord_eq_encode {opc : BitVec 4} (h : opc.toNat < 5) :
    ∃ i, commandWord opc false false = encode i := by
  match opc, h with
  | 0#4, _ => exact ⟨.nop, rfl⟩
  | 1#4, _ => exact ⟨.crc, rfl⟩
  | 2#4, _ => exact ⟨.zadv, rfl⟩
  | 3#4, _ => exact ⟨.mbuild, rfl⟩
  | 4#4, _ => exact ⟨.minv, rfl⟩

/-- R85: the legal words are the words of the commands. -/
theorem legalCommandWord_iff_encode {w : Word} : legalCommandWord w = true ↔ ∃ i, w = encode i := by
  constructor
  · intro h
    obtain ⟨⟨hz0, hz1⟩, hopc, ht, hm⟩ := legalCommandWord_iff.mp h
    rw [eq_commandWord hz0 hz1]
    by_cases h6 : fieldOpc w = 6#4
    · have hm : fieldM w = false := hm.resolve_right (by rw [h6]; decide)
      rw [h6, hm]
      exact ⟨_, (encode_comp_ite _).symm⟩
    have ht : fieldT w = false := ht.resolve_right h6
    by_cases h5 : fieldOpc w = 5#4
    · rw [h5, ht]
      exact ⟨_, (encode_mvmul_ite _).symm⟩
    have hm : fieldM w = false := hm.resolve_right h5
    rw [ht, hm]
    exact exists_commandWord_eq_encode (by bv_omega)
  · rintro ⟨i, rfl⟩
    exact (roundTrip i).1

theorem exists_eq_encode_iff {w : Word} :
    (∃ i, w = encode i) ↔
      w = 0x00000000#32 ∨ w = 0x00000001#32 ∨ w = 0x00000002#32 ∨ w = 0x00000003#32 ∨
        w = 0x00000004#32 ∨ w = 0x00000005#32 ∨ w = 0x00000205#32 ∨ w = 0x00000006#32 ∨
        w = 0x00000106#32 := by
  constructor
  · rintro ⟨i, rfl⟩
    cases i <;> decide
  · rintro (rfl | rfl | rfl | rfl | rfl | rfl | rfl | rfl | rfl)
    exacts [⟨.nop, rfl⟩, ⟨.crc, rfl⟩, ⟨.zadv, rfl⟩, ⟨.mbuild, rfl⟩, ⟨.minv, rfl⟩, ⟨.mvmul, rfl⟩,
      ⟨.mvmulM, rfl⟩, ⟨.comp, rfl⟩, ⟨.compT, rfl⟩]

/-- The legal words are those that the decoder takes. -/
theorem legalCommandWord_iff_decode {w : Word} :
    legalCommandWord w = true ↔ ∃ i, decode w = .ok i := by
  simp only [legalCommandWord_iff_encode, decode_eq_ok_iff]

/-! ### The opcode table (R91) -/

/-- A row of the table masks nothing away, and its match is the word of its command. -/
theorem opcodeTable_row {r : OpcodeRow} (h : r ∈ opcodeTable) :
    r.mask = BitVec.allOnes 32 ∧ r.pattern = encode r.instr := by
  revert r
  decide

theorem selects_iff {r : OpcodeRow} (h : r ∈ opcodeTable) {w : Word} :
    r.selects w = true ↔ w = encode r.instr := by
  obtain ⟨hmask, hpattern⟩ := opcodeTable_row h
  rw [OpcodeRow.selects, hmask, hpattern, BitVec.and_allOnes, beq_iff_eq]

theorem exists_row (i : Instr) : ∃ r ∈ opcodeTable, r.instr = i := by
  cases i <;> decide

theorem opcodeTable_pairwise_instr : opcodeTable.Pairwise (fun r q => r.instr ≠ q.instr) := by
  decide

end Sys2Proof

namespace Sys2Proof.Machine

theorem hostAct_cmd (w : Word) (s : State) :
    hostAct (.regWrite cmdIndex w) s = runCommand w s := by
  rw [hostAct, regAt_cmdIndex, regStore]

/-- R196: an illegal word is stored in `CMD` and raises `IllegalCommand`. -/
theorem runCommand_of_illegal {w : Word} (h : legalCommandWord w = false) (s : State) :
    runCommand w s = .next ((s.putCmd w).raise .illegalCommand) :=
  (runCommand_cases w s).resolve_left fun ⟨i, hi, _⟩ => by
    simp [legalCommandWord_iff_decode.mpr ⟨i, hi⟩] at h

end Sys2Proof.Machine

open Sys2Proof Sys2Proof.Machine

/-! ### The statements settled -/

/-- Settles O1: the decoder reads back what the encoder writes, and takes nothing else. -/
theorem decodeAndEncodeAgree : Obligations.DecodeAndEncodeAgree :=
  ⟨fun _ _ => decode_eq_ok_iff, rfl, rfl, rfl, rfl, rfl, rfl, rfl, rfl, rfl⟩

/-- Settles O2: the conditions are on the fields, and the words that meet them are the commands'. -/
theorem legalWordsAreExactlyTheDecodable : Obligations.LegalWordsAreExactlyTheDecodable := fun w =>
  ⟨legalCommandWord_iff, legalCommandWord_iff_decode,
    legalCommandWord_iff_encode.trans exists_eq_encode_iff,
    fun h s => (hostAct_cmd w s).trans (runCommand_of_illegal h s)⟩

/-- Settles O3: a row selects the word of its command only, and each command has its own row. -/
theorem opcodeRowsSelectTheDecodedCommand : Obligations.OpcodeRowsSelectTheDecodedCommand := by
  refine ⟨fun w i => ?_, ?_⟩
  · rw [decode_eq_ok_iff]
    constructor
    · rintro rfl
      obtain ⟨r, hr, rfl⟩ := exists_row i
      exact ⟨r, hr, (selects_iff hr).mpr rfl, rfl⟩
    · rintro ⟨r, hr, hsel, rfl⟩
      exact (selects_iff hr).mp hsel
  · refine opcodeTable_pairwise_instr.imp_of_mem fun hr hq hne w ⟨hsr, hsq⟩ => hne ?_
    rw [selects_iff hr, ← decode_eq_ok_iff] at hsr
    rw [selects_iff hq, ← decode_eq_ok_iff] at hsq
    exact Except.ok.inj (hsr.symm.trans hsq)

/-- Settles O4: the nine bit strings are the words the encoder gives. -/
theorem tableWordsDecode : Obligations.TableWordsDecode :=
  ⟨(roundTrip .nop).2, (roundTrip .crc).2, (roundTrip .zadv).2, (roundTrip .mbuild).2,
    (roundTrip .minv).2, (roundTrip .mvmul).2, (roundTrip .mvmulM).2, (roundTrip .comp).2,
    (roundTrip .compT).2⟩
end

section
/-! PROOFS. The statements of the family `40_crc_engine.md`: the laws of the passes (R103 to R105), their
linearity (R107), the loop of the table as a bijection (R100, R101, R108), and the commands `crc` (R110)
and `zadv` (R112). -/

namespace Sys2Proof.Machine

/-! ### Linear maps of words -/

/-- A linear map of words whose kernel is zero is injective. -/
theorem injective_of_xor {f : Word → Word} (hf : ∀ a b, f (a ^^^ b) = f a ^^^ f b)
    (hker : ∀ a, f a = 0#32 → a = 0#32) : Function.Injective f := fun a b hab =>
  BitVec.xor_eq_zero_iff.mp (hker _ (by rw [hf, hab, BitVec.xor_self]))

/-! ### The loop of the table (R100) -/

/-- One iteration bit by bit: the word moves down, and the bit shifted out selects `POLY`. -/
theorem getLsbD_shiftRound (v : Word) (i : Nat) :
    (shiftRound v).getLsbD i = (v.getLsbD (i + 1) ^^ (v.getLsbD 0 && poly.getLsbD i)) := by
  unfold shiftRound
  split
  next hlow =>
    rw [BitVec.getLsbD_xor, BitVec.getLsbD_ushiftRight, hlow, Bool.true_and, Nat.add_comm]
  next hlow =>
    rw [BitVec.getLsbD_ushiftRight, Bool.eq_false_iff.mpr hlow, Bool.false_and, Bool.xor_false,
      Nat.add_comm]

/-- `POLY[31]` is 1, so bit 31 of an iteration is the bit shifted out, and nothing is lost (R108). -/
theorem shiftRound_injective : Function.Injective shiftRound := by
  refine injective_of_xor shiftRound_xor fun v hv => ?_
  have hbit (i : Nat) : (v.getLsbD (i + 1) ^^ (v.getLsbD 0 && poly.getLsbD i)) = false := by
    rw [← getLsbD_shiftRound, hv, BitVec.getLsbD_zero]
  have hlow : v.getLsbD 0 = false := by
    have htop : poly.getLsbD 31 = true := by decide
    rw [← Bool.and_true (v.getLsbD 0), ← htop, ← hbit 31,
      BitVec.getLsbD_of_ge v (31 + 1) (by decide), Bool.false_xor]
  refine BitVec.eq_of_getLsbD_eq fun i _ => ?_
  rw [BitVec.getLsbD_zero]
  cases i with
  | zero => exact hlow
  | succ i => rw [← hbit i, hlow, Bool.false_and, Bool.xor_false]

theorem shiftRounds_injective (n : Nat) : Function.Injective (shiftRounds n) := by
  induction n with
  | zero => exact Function.injective_id
  | succ n ih => exact ih.comp shiftRound_injective

/-- While zeros are shifted out the loop only shifts. -/
theorem shiftRounds_eq_ushiftRight {n : Nat} {v : Word} (h : ∀ i, i < n → v.getLsbD i = false) :
    shiftRounds n v = v >>> n := by
  induction n generalizing v with
  | zero => rfl
  | succ n ih =>
    have hround : shiftRound v = v >>> 1 := if_neg (Bool.eq_false_iff.mp (h 0 (by omega)))
    have hbits (i : Nat) (hi : i < n) : (v >>> 1).getLsbD i = false := by
      rw [BitVec.getLsbD_ushiftRight]
      exact h (1 + i) (by omega)
    rw [shiftRounds, hround, ih hbits, ← BitVec.shiftRight_add, Nat.add_comm]

/-- A word with top byte 0, moved up by a byte, comes back in eight iterations. -/
theorem shiftRounds_shiftLeft_of_top {w : Word} (h : ∀ i, 24 ≤ i → w.getLsbD i = false) :
    shiftRounds 8 (w <<< 8) = w := by
  rw [shiftRounds_eq_ushiftRight fun i hi => by simp [hi]]
  refine BitVec.eq_of_getLsbD_eq fun i _ => ?_
  rw [BitVec.getLsbD_ushiftRight, BitVec.getLsbD_shiftLeft, Nat.add_sub_cancel_left]
  by_cases hi : i < 24
  · simp [show 8 + i < 32 by omega]
  · simp [h i (Nat.not_lt.mp hi)]

/-! ### The table (R101) -/

@[simp] theorem tableEntry_zero : tableEntry 0#8 = 0#32 := by decide

/-- The XOR of the entries at the indices `l` is the entry at the XOR of the indices. -/
theorem foldl_xor_tableEntry (l : List Nat) :
    l.foldl (fun x n => x ^^^ tableEntry (BitVec.ofNat 8 n)) 0#32 =
      tableEntry (l.foldl (fun b n => b ^^^ BitVec.ofNat 8 n) 0#8) := by
  rw [← List.foldl_hom tableEntry (g₂ := fun x n => x ^^^ tableEntry (BitVec.ofNat 8 n))
    fun b n => (tableEntry_xor b (BitVec.ofNat 8 n)).symm, tableEntry_zero]

/-- An entry with top byte 0 comes in eight iterations from itself moved up by a byte, and from no other
word; so its index is that word, whose low byte is 0. -/
theorem eq_zero_of_tableEntry_top {n : Byte} (h : (tableEntry n).extractLsb' 24 8 = 0#8) :
    n = 0#8 := by
  have htop (i : Nat) (hi : 24 ≤ i) : (tableEntry n).getLsbD i = false := by
    have := congrArg (BitVec.getLsbD · (i - 24)) h
    by_cases h32 : i < 32
    · simpa [show i - 24 < 8 by omega, Nat.add_sub_cancel' hi] using this
    · exact BitVec.getLsbD_of_ge _ _ (Nat.not_lt.mp h32)
  have hindex : n.setWidth 32 = tableEntry n <<< 8 :=
    shiftRounds_injective 8 (shiftRounds_shiftLeft_of_top htop).symm
  refine BitVec.eq_of_getLsbD_eq fun i hi => ?_
  have := congrArg (BitVec.getLsbD · i) hindex
  simpa [hi, show i < 32 by omega] using this

theorem tableEntry_top_injective {a b : Byte}
    (h : (tableEntry a).extractLsb' 24 8 = (tableEntry b).extractLsb' 24 8) : a = b := by
  refine BitVec.xor_eq_zero_iff.mp (eq_zero_of_tableEntry_top ?_)
  rw [tableEntry_xor, BitVec.extractLsb'_xor, h, BitVec.xor_self]

/-! ### The byte round with byte 0 (R105, R108) -/

theorem upd_zero_right (acc : Word) :
    upd acc 0#8 = tableEntry (acc.extractLsb' 0 8) ^^^ (acc >>> 8) := by
  rw [upd, BitVec.setWidth_zero, BitVec.xor_zero, setWidth_and_low,
    BitVec.setWidth_eq_extractLsb' (by decide)]

/-- A word is its low byte and the rest. -/
theorem low_xor_high (w : Word) : (w.extractLsb' 0 8).setWidth 32 ^^^ (w >>> 8 <<< 8) = w := by
  refine BitVec.eq_of_getLsbD_eq fun i hi => ?_
  by_cases hlow : i < 8
  · simp [hlow, hi]
  · simp [hlow, hi, Nat.add_sub_cancel' (Nat.not_lt.mp hlow)]

/-- The byte round with byte 0 is eight iterations of the loop on the whole accumulator (R108): the
low byte goes through the table, the rest only moves down. -/
theorem upd_zero_eq_shiftRounds (acc : Word) : upd acc 0#8 = shiftRounds 8 acc := by
  have hhigh : shiftRounds 8 (acc >>> 8 <<< 8) = acc >>> 8 := by
    refine shiftRounds_shiftLeft_of_top fun i hi => ?_
    rw [BitVec.getLsbD_ushiftRight, BitVec.getLsbD_of_ge acc (8 + i) (by omega)]
  calc upd acc 0#8
      = shiftRounds 8 ((acc.extractLsb' 0 8).setWidth 32) ^^^ shiftRounds 8 (acc >>> 8 <<< 8) := by
        rw [upd_zero_right, hhigh, tableEntry]
    _ = shiftRounds 8 acc := by rw [← shiftRounds_xor, low_xor_high]

theorem upd_zero_bijective : Function.Bijective fun a : Word => upd a 0#8 := by
  simp only [upd_zero_eq_shiftRounds]
  exact Finite.injective_iff_bijective.mp (shiftRounds_injective 8)

theorem zAdv_eq_iterate (n : Nat) :
    (fun a : Word => zAdv a n) = (fun a : Word => upd a 0#8)^[n] := by
  induction n with
  | zero => rfl
  | succ n ih =>
    rw [Function.iterate_succ, ← ih]
    funext a
    exact zAdv_succ a n

theorem zAdv_bijective (n : Nat) : Function.Bijective fun a : Word => zAdv a n := by
  rw [zAdv_eq_iterate]
  exact upd_zero_bijective.iterate n

/-! ### Passes (R103 to R105, R107) -/

theorem zAdv_eq_raw (acc : Word) (n : Nat) : zAdv acc n = raw acc (List.replicate n 0#8) := by
  induction n generalizing acc with
  | zero => rfl
  | succ n ih => rw [zAdv_succ, ih, List.replicate_succ, raw_cons]

theorem zAdv_zero_left (n : Nat) : zAdv 0#32 n = 0#32 := by
  simpa using zAdv_xor n 0#32 0#32

/-- A pass is linear in the accumulator and the bytes together (R107). -/
theorem raw_zipWith_xor {x x' : List Byte} (a a' : Word) (h : x.length = x'.length) :
    raw (a ^^^ a') (List.zipWith (fun b b' => b ^^^ b') x x') = raw a x ^^^ raw a' x' := by
  induction x generalizing x' a a' with
  | nil =>
    cases List.length_eq_zero_iff.mp h.symm
    rfl
  | cons b x ih =>
    cases x' with
    | nil => cases h
    | cons b' x' =>
      rw [List.zipWith_cons_cons, raw_cons, upd_xor, ih _ _ (Nat.succ.inj h), raw_cons, raw_cons]

/-- A change of the bytes changes the CRC by its pass from 0: the initial value and the final XOR cancel
(R107). -/
theorem crc32_zipWith_xor {x d : List Byte} (h : x.length = d.length) :
    crc32 (List.zipWith (fun b b' => b ^^^ b') x d) = crc32 x ^^^ raw 0#32 d := by
  have hraw := raw_zipWith_xor crcInit 0#32 h
  rw [BitVec.xor_zero] at hraw
  rw [crc32, hraw, crc32]
  ac_rfl

/-- The accumulator `crc` leaves, from the CRC it answers (R110). -/
theorem crc32_xor_xorOut (bytes : List Byte) : crc32 bytes ^^^ crcXorOut = raw crcInit bytes := by
  rw [crc32, BitVec.xor_assoc, BitVec.xor_self, BitVec.xor_zero]

end Sys2Proof.Machine

open Sys2Proof Sys2Proof.Machine

/-! ### The statements settled -/

/-- Settles O16: the pass leaves `Raw`, which is the CRC without its final XOR. -/
theorem crcResult : Obligations.CrcResult := by
  refine ⟨(roundTrip .crc).2, fun s => ⟨fun hin => ?_, fun hout => ?_⟩⟩
  · obtain ⟨-, h⟩ | ⟨hout, -⟩ := execCrc_cases s
    · rw [← crc32_xor_xorOut] at h
      exact h
    · exact absurd hin (Nat.not_le.mpr hout)
  · obtain ⟨hin, -⟩ | ⟨-, h⟩ := execCrc_cases s
    · exact absurd hin (Nat.not_le.mpr hout)
    · exact h

/-- Settles O17: `ZAdv` is `Raw` over zero bytes. -/
theorem zadvResult : Obligations.ZadvResult := by
  refine ⟨(roundTrip .zadv).2, fun s => ?_⟩
  rw [← zAdv_eq_raw]
  rfl

/-- Settles O37: the recursions, composition, and the byte round with byte 0. -/
theorem engineFunctionLaws : Obligations.EngineFunctionLaws :=
  ⟨raw_nil, raw_cons, raw_append, fun _ => rfl, rfl,
    fun acc n => ⟨zAdv_zero acc, zAdv_succ acc n, zAdv_eq_raw acc n⟩, upd_zero_right⟩

/-- Settles O38: the table is linear, the XOR of all bytes is 0, and eight iterations of the loop lose
nothing. -/
theorem lookupTableFacts : Obligations.LookupTableFacts := by
  refine ⟨tableEntry_xor, tableEntry_zero, by decide, ?_, fun _ _ => tableEntry_top_injective⟩
  have hbytes : (List.range 256).foldl (fun b n => b ^^^ BitVec.ofNat 8 n) 0#8 = 0#8 := by
    decide +kernel
  rw [foldl_xor_tableEntry, hbytes, tableEntry_zero]

/-- Settles O39: the rounds are linear, so the passes are. -/
theorem updateIsLinear : Obligations.UpdateIsLinear :=
  ⟨⟨by decide, fun n => ⟨zAdv_zero_left n, (zAdv_eq_raw 0#32 n).symm.trans (zAdv_zero_left n)⟩⟩,
    upd_xor, fun _ _ a a' => raw_zipWith_xor a a', fun _ _ => crc32_zipWith_xor⟩

/-- Settles O40: a round with byte 0 can be undone iteration by iteration, and `ZAdv` iterates it. -/
theorem zeroAdvanceIsBijective : Obligations.ZeroAdvanceIsBijective :=
  ⟨upd_zero_bijective, zAdv_bijective⟩
end

section
/-! PROOFS. The statements of the family `41_gf2_matrix.md`: the bytes of a basis vector (R131), `MBuild`
(R132, R133), the elimination and when it fails (R134, R135), `MulVec` (R136), and the commands
`mbuild` (R140), `minv` (R142), `mvmul` (R144) and `mvmul.m` (R145). -/

namespace Sys2Proof.Machine

/-! ### `MulVec` (R136) -/

theorem getLsbD_mulVec (x : Mat) (v : Word) (j : Nat) :
    (mulVec x v).getLsbD j =
      (List.finRange 32).foldl (fun b i => b ^^ (v.getLsbD i.val && (x.get i).getLsbD j)) false := by
  rw [mulVec_eq_foldl, getLsbD_foldl_mulVecStep, BitVec.getLsbD_zero]

@[simp] theorem mulVec_zero_right (x : Mat) : mulVec x 0#32 = 0#32 := by
  simpa using mulVec_xor x 0#32 0#32

/-! ### `MBuild` (R132, R133) -/

/-- R131: the one byte of a basis vector that is not 0. -/
theorem le4_basis (i : Fin 32) :
    le4 (basis i) =
      (List.range 4).map fun k => if k = i.val / 8 then 1#8 <<< (i.val % 8) else 0#8 := by
  revert i
  decide

/-- Both forms of R132: the zero-advance of a word's pass is the pass over the word and zeros. -/
theorem zAdv_raw_le4 (p : Word) (t : Nat) :
    zAdv (raw 0#32 (le4 p)) t = raw 0#32 (le4 p ++ List.replicate t 0#8) := by
  rw [zAdv_eq_raw, raw_append]

theorem mBuild_get (t : Nat) (i : Fin 32) :
    (mBuild t).get i = raw 0#32 (le4 (basis i) ++ List.replicate t 0#8) := by
  rw [mBuild, Mat.get_ofFn, zAdv_raw_le4]

theorem upd_zero_left (b : Byte) : upd 0#32 b = tableEntry b := by
  rw [upd, BitVec.zero_xor, setWidth_and_low, BitVec.setWidth_setWidth_of_le _ (by decide),
    BitVec.setWidth_eq, BitVec.zero_ushiftRight, BitVec.xor_zero]

theorem raw_zero_cons_zero (bs : List Byte) : raw 0#32 (0#8 :: bs) = raw 0#32 bs := by
  rw [raw_cons, upd_zero_left, tableEntry_zero]

/-- The basis vector eight places up has the same bytes one place later: a zero byte moves from the end
to the front. -/
theorem le4_basis_add_eight (i : Fin 24) :
    ∃ bs : List Byte, le4 (basis ⟨i.val, by omega⟩) = bs ++ [0#8] ∧
      le4 (basis ⟨i.val + 8, by omega⟩) = 0#8 :: bs := by
  refine ⟨(le4 (basis ⟨i.val, by omega⟩)).take 3, ?_⟩
  revert i
  decide

/-- R133 item 1: the bit is in the last byte, the only one that is not 0. -/
theorem mBuild_zero_get_last (k : Fin 8) :
    (mBuild 0).get ⟨24 + k.val, by omega⟩ = tableEntry (1#8 <<< k.val) := by
  have hbytes : le4 (basis ⟨24 + k.val, by omega⟩) = [0#8, 0#8, 0#8, 1#8 <<< k.val] := by
    revert k
    decide
  rw [mBuild_get, hbytes, List.replicate_zero, List.append_nil, raw_zero_cons_zero,
    raw_zero_cons_zero, raw_zero_cons_zero, raw_cons, raw_nil, upd_zero_left]

/-- R133 item 2: a zero byte in front is nothing to a pass from 0, and one more behind is a step of the
trailing length. -/
theorem mBuild_succ_get (t : Nat) (i : Fin 24) :
    (mBuild (t + 1)).get ⟨i.val + 8, by omega⟩ = (mBuild t).get ⟨i.val, by omega⟩ := by
  obtain ⟨bs, hlow, hhigh⟩ := le4_basis_add_eight i
  rw [mBuild_get, mBuild_get, hlow, hhigh, List.cons_append, raw_zero_cons_zero,
    List.replicate_succ, List.append_assoc, List.singleton_append]

/-! ### The two sides of an inverse (R135) -/

/-- A right inverse of a map of the finitely many words is a left inverse too. -/
theorem inverseOf_of_gf2Invert {a b : Mat} (h : gf2Invert a = some b) : Mat.InverseOf b a := by
  have hright : Function.LeftInverse (mulVec a) (mulVec b) := mulVec_of_gf2Invert h
  have hleft := hright.rightInverse_of_surjective
    (Finite.surjective_of_injective hright.injective)
  exact fun v => ⟨hright v, hleft v⟩

theorem Mat.InverseOf.nonsingular {a b : Mat} (h : Mat.InverseOf b a) : Mat.Nonsingular a := by
  intro v hv
  rw [← (h v).2, hv, mulVec_zero_right]

theorem Mat.Nonsingular.mulVec_surjective {a : Mat} (h : Mat.Nonsingular a) :
    Function.Surjective (mulVec a) :=
  Finite.surjective_of_injective (injective_of_xor (mulVec_xor a) h)

/-! ### When the elimination fails (R134, R135 item 3)

The elimination keeps the span of the words of `W`, told by the linear forms that vanish on it.  A column
without a pivot gives a linear form that vanishes on every word of `W` and is not zero. -/

/-- A linear form on words. -/
def IsLinearForm (f : Word → Bool) : Prop := ∀ a b, f (a ^^^ b) = (f a ^^ f b)

/-- The words of `x` span all words: no linear form but zero vanishes on all of them. -/
def Mat.Spanning (x : Mat) : Prop :=
  ∀ f, IsLinearForm f → (∀ r, f (x.get r) = false) → ∀ v, f v = false

/-- A linear form that vanishes on the words of `x` vanishes on their combinations. -/
theorem IsLinearForm.mulVec_eq_false {f : Word → Bool} (hf : IsLinearForm f) {x : Mat}
    (hx : ∀ r, f (x.get r) = false) (v : Word) : f (mulVec x v) = false := by
  have hzero : f 0#32 = false := by simpa using hf 0#32 0#32
  refine List.foldlRecOn (motive := fun r => f r = false) _ (mulVecStep x v) hzero
    fun r hr i _ => ?_
  rw [mulVecStep, apply_ite f, hf, hx, hr, Bool.xor_false, ite_self]

theorem Mat.Nonsingular.spanning {a : Mat} (h : Mat.Nonsingular a) : a.Spanning := by
  intro f hf ha v
  obtain ⟨u, rfl⟩ := h.mulVec_surjective v
  exact hf.mulVec_eq_false ha u

theorem Mat.Spanning.swapRows {x : Mat} (h : x.Spanning) (i j : Fin 32) :
    (swapRows x i j).Spanning := by
  intro f hf hx
  refine h f hf fun r => ?_
  rw [← Equiv.swap_apply_self i j r, ← swapRows_get]
  exact hx _

/-- Adding row `c` to other rows loses nothing: row `c` itself is not changed. -/
theorem Mat.Spanning.addRow {x : Mat} (h : x.Spanning) {hit : Fin 32 → Bool} {c : Fin 32}
    (hc : hit c = false) : (addRow hit x c).Spanning := by
  intro f hf hx
  have hrow : f (x.get c) = false := by simpa [addRow_get, hc] using hx c
  refine h f hf fun r => ?_
  have hr := hx r
  rwa [addRow_get, apply_ite f, hf, hrow, Bool.xor_false, ite_self] at hr

/-- What one column of the elimination does (R134). -/
theorem elimColumn_cases (c : Fin 32) (w b : Mat) :
    (elimColumn c w b = none ∧ ∀ r, c ≤ r → (w.get r).getLsbD c.val = false) ∨
      ∃ p, c ≤ p ∧ (w.get p).getLsbD c.val = true ∧
        elimColumn c w b = some
          (addRow (hasBit (swapRows w c p) c) (swapRows w c p) c,
            addRow (hasBit (swapRows w c p) c) (swapRows b c p) c) := by
  cases hp : pivotRow w c with
  | none =>
    refine .inl ⟨by simp only [elimColumn, hp], fun r hr => ?_⟩
    have := List.find?_eq_none.mp hp r (List.mem_finRange r)
    simpa [hr] using this
  | some p =>
    obtain ⟨hle, hbit⟩ := pivotRow_eq_some hp
    exact .inr ⟨p, hle, hbit, by simp only [elimColumn, hp]⟩

/-- The columns still to be eliminated are those from the next one on. -/
theorem mem_cons_iff_le_of_suffix {c : Fin 32} {cs : List (Fin 32)}
    (hcs : c :: cs <:+ List.finRange 32) (r : Fin 32) : r ∈ c :: cs ↔ c ≤ r := by
  obtain ⟨before, hsplit⟩ := hcs
  have hsorted := List.pairwise_lt_finRange 32
  have hr := List.mem_finRange r
  rw [← hsplit] at hsorted hr
  obtain ⟨-, htail, hbefore⟩ := List.pairwise_append.mp hsorted
  constructor
  · intro hmem
    obtain rfl | hmem := List.mem_cons.mp hmem
    · exact le_rfl
    · exact (List.rel_of_pairwise_cons htail hmem).le
  · intro hle
    refine (List.mem_append.mp hr).resolve_left fun hmem => ?_
    exact absurd (hbefore r hmem c List.mem_cons_self) (not_lt.mpr hle)

/-- The words of `w` of the rows before `c`, and 0 from there on. -/
def rowsBefore (c : Fin 32) (w : Mat) : Mat := Mat.ofFn fun d => if c ≤ d then 0#32 else w.get d

/-- Bit `c` of a word less what the rows before `c` put there when they clear its lower bits: the linear
form that shows column `c` to depend on the columns before it. -/
def columnForm (c : Fin 32) (w : Mat) (v : Word) : Bool :=
  v.getLsbD c.val ^^ (mulVec (rowsBefore c w) v).getLsbD c.val

theorem isLinearForm_columnForm (c : Fin 32) (w : Mat) : IsLinearForm (columnForm c w) := by
  intro a b
  simp only [columnForm, mulVec_xor, BitVec.getLsbD_xor, Bool.xor_assoc, Bool.xor_left_comm]

theorem columnForm_basis (c : Fin 32) (w : Mat) : columnForm c w (basis c) = true := by
  simp [columnForm, rowsBefore, mulVec_basis_right, getLsbD_basis]

/-- With the columns before `c` cleared and no pivot in column `c`, the form vanishes on every row: on a
row before `c` the row itself is taken off, on a later one there is nothing. -/
theorem columnForm_get_eq_false {w : Mat} {c : Fin 32}
    (hcleared : ∀ d, d < c → ∀ r, (w.get r).getLsbD d.val = decide (r = d))
    (hpivot : ∀ r, c ≤ r → (w.get r).getLsbD c.val = false) (r : Fin 32) :
    columnForm c w (w.get r) = false := by
  have hterm (d : Fin 32) :
      ((w.get r).getLsbD d.val && ((rowsBefore c w).get d).getLsbD c.val) =
        (((rowsBefore c w).get d).getLsbD c.val && decide (d = r)) := by
    rw [rowsBefore, Mat.get_ofFn]
    split
    next => simp
    next hd => rw [hcleared d (not_le.mp hd) r, Bool.and_comm, decide_eq_decide.mpr eq_comm]
  have hsum : (mulVec (rowsBefore c w) (w.get r)).getLsbD c.val =
      ((rowsBefore c w).get r).getLsbD c.val := by
    simp only [getLsbD_mulVec, hterm]
    rw [foldl_xor_single (fun d => ((rowsBefore c w).get d).getLsbD c.val) r
      (List.nodup_finRange 32)]
    simp
  rw [columnForm, hsum, rowsBefore, Mat.get_ofFn]
  split
  next hr => rw [hpivot r hr, BitVec.getLsbD_zero, Bool.xor_false]
  next => exact Bool.xor_self _

/-- While the words of `w` span, the elimination finds a pivot in every column. -/
theorem Eliminated.elimColumns_ne_none {a : Mat} {cs : List (Fin 32)}
    (hcs : cs <:+ List.finRange 32) {w b : Mat} (h : Eliminated a cs w b) (hspan : w.Spanning) :
    elimColumns cs w b ≠ none := by
  induction cs generalizing w b with
  | nil => exact Option.some_ne_none _
  | cons c cs ih =>
    have hmem := mem_cons_iff_le_of_suffix hcs
    obtain ⟨-, hpivot⟩ | ⟨p, hle, hbit, hcol⟩ := elimColumn_cases c w b
    · have hcleared (d : Fin 32) (hd : d < c) := h.cleared d fun hin =>
        absurd ((hmem d).mp hin) (not_le.mpr hd)
      have hform := hspan _ (isLinearForm_columnForm c w)
        (columnForm_get_eq_false hcleared hpivot) (basis c)
      rw [columnForm_basis] at hform
      cases hform
    · have hcell : ((swapRows w c p).get c).getLsbD c.val = true := by
        rwa [swapRows_get, Equiv.swap_apply_left]
      have hunmarked : hasBit (swapRows w c p) c c = false := by simp [hasBit]
      simp only [elimColumns, hcol]
      exact ih ((List.suffix_cons c cs).trans hcs)
        ((h.swap List.mem_cons_self ((hmem p).mpr hle)).clear hcell)
        ((hspan.swapRows c p).addRow hunmarked)

/-- R135 item 3: the elimination fails exactly on dependent words. -/
theorem gf2Invert_eq_none_iff {a : Mat} : gf2Invert a = none ↔ ¬ Mat.Nonsingular a := by
  constructor
  · intro h ha
    exact (Eliminated.start a).elimColumns_ne_none List.suffix_rfl ha.spanning
      (Option.map_eq_none_iff.mp h)
  · intro ha
    by_contra h
    obtain ⟨b, hb⟩ := Option.ne_none_iff_exists'.mp h
    exact ha (inverseOf_of_gf2Invert hb).nonsingular

end Sys2Proof.Machine

open Sys2Proof Sys2Proof.Machine

/-! ### The statements settled -/

/-- Settles O19: `minv` ends as the elimination does, which fails exactly on dependent words. -/
theorem minvResult : Obligations.MinvResult := by
  refine ⟨(roundTrip .minv).2, fun s => ?_⟩
  obtain ⟨b, hinv, h⟩ | ⟨hinv, h⟩ := execMinv_cases s
  · have hinverse := inverseOf_of_gf2Invert hinv
    exact ⟨fun _ => ⟨b, h, hinv, hinverse⟩, fun hs => absurd hinverse.nonsingular hs⟩
  · exact ⟨fun hs => absurd hs (gf2Invert_eq_none_iff.mp hinv), fun _ => h⟩

/-- Settles O18: the words of `MBuild` are in the second form of R132. -/
theorem mbuildResult : Obligations.MbuildResult :=
  ⟨(roundTrip .mbuild).2, fun s => ⟨mBuild s.count.toNat, rfl, mBuild_get s.count.toNat⟩⟩

/-- Settles O20, by the bits of a product. -/
theorem mvmulResult : Obligations.MvmulResult :=
  ⟨(roundTrip .mvmul).2, fun s =>
    ⟨mulVec s.inv s.vec, rfl, fun j _ => getLsbD_mulVec s.inv s.vec j⟩⟩

/-- Settles O21, by the bits of a product. -/
theorem mvmulMResult : Obligations.MvmulMResult :=
  ⟨(roundTrip .mvmulM).2, fun s =>
    ⟨mulVec s.mat s.vec, rfl, fun j _ => getLsbD_mulVec s.mat s.vec j⟩⟩

/-- Settles O44: a product is linear in the vector, and the basis reads off the columns. -/
theorem mulVecIsLinear : Obligations.MulVecIsLinear := fun x =>
  ⟨fun v j _ => getLsbD_mulVec x v j, mulVec_zero_right x, mulVec_basis_right x, mulVec_xor x⟩

/-- Settles O45: a right inverse of a map of finitely many words is its inverse, and column `i` of it is
the image of `Basis(i)`. -/
theorem inversionIsCorrect : Obligations.InversionIsCorrect := by
  refine fun a => ⟨fun b h => ⟨inverseOf_of_gf2Invert h, fun i => ?_⟩, gf2Invert_eq_none_iff⟩
  rw [← mulVec_basis_right b, mulVec_of_gf2Invert h]

/-- Settles O46: `MBuild` word by word, and as a linear map. -/
theorem mBuildFacts : Obligations.MBuildFacts :=
  ⟨mBuild_zero_get_last, mBuild_succ_get, fun t p => (mulVec_mBuild t p).trans (zAdv_raw_le4 p t)⟩

/-- Settles O43: the bytes by definition, those of a basis vector position by position. -/
theorem basisVectorBytes : Obligations.BasisVectorBytes := ⟨fun _ => rfl, le4_basis⟩
end

section
/-! PROOFS. The statements of the family `42_compensator.md`: `MBuild(t)` is `ZAdv(., t + 4)` and so
invertible (R167), a patch word decides the CRC (R166, R171), and what `comp` (R163) and `comp.t` (R164)
do: they end with an error of the two checks, or in the success row of R165 (R168, R169). -/

namespace Sys2Proof.Machine

/-! ### `MBuild(t)` is a zero-advance (R167) -/

/-- A byte round with the accumulator's own low byte looks up `TABLE[0]`: the accumulator only moves
down. -/
theorem upd_ushiftRight_extractLsb' (w : Word) (n : Nat) :
    upd (w >>> n) (w.extractLsb' n 8) = w >>> (n + 8) := by
  have hindex : ((w >>> n ^^^ (w.extractLsb' n 8).setWidth 32) &&& 0xFF#32).setWidth 8 = 0#8 := by
    rw [setWidth_and_low, BitVec.setWidth_xor, BitVec.setWidth_setWidth_of_le _ (by decide),
      BitVec.setWidth_eq]
    exact BitVec.xor_self
  rw [upd, hindex, tableEntry_zero, BitVec.zero_xor, BitVec.shiftRight_add]

/-- A word fed with its own four bytes is shifted out whole. -/
theorem raw_le4_self (p : Word) : raw p (le4 p) = 0#32 := by
  have hfirst : upd p (p.extractLsb' 0 8) = p >>> 8 := upd_ushiftRight_extractLsb' p 0
  simp only [le4, raw_cons, raw_nil, hfirst, upd_ushiftRight_extractLsb']
  exact BitVec.ushiftRight_eq_zero (by decide)

/-- The bytes of a word fed to 0 are four zeros fed to the word: the two differ by the word fed with its
own bytes. -/
theorem raw_zero_le4 (p : Word) : raw 0#32 (le4 p) = zAdv p 4 := by
  have hself : zAdv p 4 ^^^ raw 0#32 (le4 p) = 0#32 := by
    have hsplit := raw_le4_xor p 0#32 0#32 p
    rw [BitVec.xor_zero, BitVec.zero_xor, raw_le4_self] at hsplit
    rw [zAdv_eq_raw]
    exact hsplit.symm
  exact (BitVec.xor_eq_zero_iff.mp hself).symm

theorem zAdv_zAdv (acc : Word) (m n : Nat) : zAdv (zAdv acc m) n = zAdv acc (n + m) := by
  simp only [zAdv_eq_raw, ← raw_append, List.replicate_append_replicate, Nat.add_comm]

theorem mulVec_mBuild_eq_zAdv (t : Nat) (p : Word) : mulVec (mBuild t) p = zAdv p (t + 4) := by
  rw [mulVec_mBuild, raw_zero_le4, zAdv_zAdv]

theorem mulVec_mBuild_bijective (t : Nat) : Function.Bijective (mulVec (mBuild t)) := by
  rw [funext (mulVec_mBuild_eq_zAdv t)]
  exact zAdv_bijective (t + 4)

theorem mBuild_nonsingular (t : Nat) : Mat.Nonsingular (mBuild t) := fun _ hv =>
  (mulVec_mBuild_bijective t).injective (hv.trans (mulVec_zero_right _).symm)

theorem gf2Invert_mBuild_ne_none (t : Nat) : gf2Invert (mBuild t) ≠ none := fun h =>
  gf2Invert_eq_none_iff.mp h (mBuild_nonsingular t)

/-! ### The patch word (R166, R171) -/

theorem xor_eq_iff_eq_xor {a b c : Word} : a ^^^ b = c ↔ b = c ^^^ a := by
  rw [← BitVec.xor_right_inj a, ← BitVec.xor_assoc, BitVec.xor_self, BitVec.zero_xor,
    BitVec.xor_comm a c]

/-- R166: a patch word gives the CRC `c` exactly when it solves the operative equation for `c`. -/
theorem State.crc32_patchedBytes_eq_iff {s : State} {off : Nat} (h : off + 4 ≤ s.size.toNat)
    (p c : Word) :
    crc32 (s.patchedBytes off p) = c ↔
      mulVec (mBuild (s.trailing off)) p = c ^^^ crc32 (s.baseBytes off) := by
  rw [State.crc32_patchedBytes h, xor_eq_iff_eq_xor]

/-- The word computed from the inverse solves it. -/
theorem State.crc32_patchedBytes_mulVec {s : State} {off : Nat} {b : Mat} (c : Word)
    (h : off + 4 ≤ s.size.toNat) (hinv : gf2Invert (mBuild (s.trailing off)) = some b) :
    crc32 (s.patchedBytes off (mulVec b (c ^^^ crc32 (s.baseBytes off)))) = c := by
  rw [State.crc32_patchedBytes_eq_iff h, mulVec_of_gf2Invert hinv]

theorem State.crc32_patchedBytes_bijective {s : State} {off : Nat} (h : off + 4 ≤ s.size.toNat) :
    Function.Bijective fun p => crc32 (s.patchedBytes off p) := by
  refine (Function.bijective_iff_existsUnique _).mpr fun c => ?_
  simp only [State.crc32_patchedBytes_eq_iff h]
  exact (mulVec_mBuild_bijective _).existsUnique _

theorem exists_word_byteOf (f : Nat → Byte) : ∃ w : Word, ∀ k, k < 4 → byteOf w k = f k := by
  refine ⟨f 3 ++ f 2 ++ f 1 ++ f 0, fun k hk => BitVec.eq_of_getLsbD_eq fun i hi => ?_⟩
  simp only [byteOf, BitVec.getLsbD_extractLsb', BitVec.getLsbD_append]
  interval_cases k <;> grind

/-- The buffer is the one patched with the word already in the patch field (R171). -/
theorem State.patchedBytes_of_field {s : State} {off : Nat} {p : Word}
    (h : ∀ k, k < 4 → byteOf p k = s.mem.read (s.addr.toNat + off + k)) :
    s.patchedBytes off p = s.bufferBytes := by
  refine List.map_congr_left fun k _ => ?_
  split
  · rw [h (k - off) (by omega)]
    congr 1
    omega
  · rfl

/-- `m` reads as the memory of `s` outside the patch field at `off` (R70, R162). -/
def State.SameOutsideField (s : State) (off : Nat) (m : Memory) : Prop :=
  ∀ a, a < s.addr.toNat + off ∨ s.addr.toNat + off + 4 ≤ a → m.read a = s.mem.read a

/-- R162: the patched buffer holds no byte of the patch field. -/
theorem State.patchedBytes_putMem {s : State} {off : Nat} {m : Memory} (p : Word)
    (h : s.SameOutsideField off m) :
    (s.putMem m).patchedBytes off p = s.patchedBytes off p := by
  refine List.map_congr_left fun k _ => ?_
  split
  · rfl
  · exact h _ (by simp only [State.putMem_addr]; omega)

/-- R162: the base pass reads no byte of the patch field. -/
theorem State.baseBytes_putMem {s : State} {off : Nat} {m : Memory}
    (h : s.SameOutsideField off m) :
    (s.putMem m).baseBytes off = s.baseBytes off := by
  simp only [State.baseBytes_eq_patchedBytes, State.patchedBytes_putMem 0#32 h]

/-- What a memory reads after a word is stored (R64). -/
theorem Memory.read_writeBytes_le4_eq (m : Memory) (a : Nat) (w : Word) (b : Nat) :
    (m.writeBytes a (le4 w)).read b = if b < a ∨ a + 4 ≤ b then m.read b else byteOf w (b - a) := by
  split
  next hb => exact Memory.read_writeBytes_outside hb
  next hb =>
    obtain ⟨k, rfl⟩ := Nat.exists_eq_add_of_le (show a ≤ b by omega)
    rw [Memory.read_writeBytes_le4 (by omega), Nat.add_sub_cancel_left]

/-! ### How a compensation ends (R163, R164) -/

theorem exec_eq_compensateAt {i : Instr} (hi : i = .comp ∨ i = .compT) (s : State) :
    exec i s = compensateAt (s.patchOffset i) s := by
  obtain rfl | rfl := hi
  · rfl
  · rw [State.patchOffset_compT]
    exact execCompT_eq s

theorem compensateAt_of_invalidOffset {s : State} {off : Nat} (hoff : s.size.toNat < off + 4) :
    compensateAt off s = .next (s.raise .invalidOffset) := by
  rw [compensateAt, if_neg (mt State.patchInBuffer_iff.mp (Nat.not_le.mpr hoff))]

theorem compensateAt_of_addrRange {s : State} {off : Nat} (hoff : off + 4 ≤ s.size.toNat)
    (hmem : s.cfg.memBytes < s.addr.toNat + s.size.toNat) :
    compensateAt off s = .next (s.raise .addrRange) := by
  rw [compensateAt, if_pos (State.patchInBuffer_iff.mpr hoff),
    if_neg (mt State.bufferInRange_iff.mp (Nat.not_le.mpr hmem))]

theorem CompensationEnds.of_exec {i : Instr} {s t : State} (hi : i = .comp ∨ i = .compT)
    (h : exec i s = .next t) : CompensationEnds (s.patchOffset i) s t := by
  obtain ⟨t', h', hends⟩ := compensateAt_ends (s.patchOffset i) s
  rw [exec_eq_compensateAt hi, h'] at h
  cases h
  exact hends

/-- What a compensation can do: the two checks fail in order, or it succeeds.  `Unsolvable` (R167) and
`Internal` (R168) are not among its ends. -/
theorem CompensationEnds.cases_raise_or_complete {off : Nat} {s t : State}
    (h : CompensationEnds off s t) :
    (s.size.toNat < off + 4 ∧ t = s.raise .invalidOffset) ∨
      (off + 4 ≤ s.size.toNat ∧ s.cfg.memBytes < s.addr.toNat + s.size.toNat ∧
        t = s.raise .addrRange) ∨
      (off + 4 ≤ s.size.toNat ∧ s.addr.toNat + s.size.toNat ≤ s.cfg.memBytes ∧
        ∃ b, gf2Invert (mBuild (s.trailing off)) = some b ∧ t = (s.afterVerify off b).complete) := by
  cases h with
  | invalidOffset hoff => exact .inl ⟨hoff, rfl⟩
  | addrRange hoff hmem => exact .inr (.inl ⟨hoff, hmem, rfl⟩)
  | unsolvable _ _ hnone => exact absurd hnone (gf2Invert_mBuild_ne_none _)
  | verified hoff hmem hinv => exact .inr (.inr ⟨hoff, hmem, _, hinv, rfl⟩)
  | mismatch hoff _ hinv hres => exact absurd (State.afterVerify_result_eq_target hoff hinv) hres

/-- R167, R168: with both checks passed the command always completes. -/
theorem compensateAt_of_fits {s : State} {off : Nat} {b : Mat} (hoff : off + 4 ≤ s.size.toNat)
    (hmem : s.addr.toNat + s.size.toNat ≤ s.cfg.memBytes)
    (hinv : gf2Invert (mBuild (s.trailing off)) = some b) :
    compensateAt off s = .next (s.afterVerify off b).complete := by
  obtain ⟨t, h, hends⟩ := compensateAt_ends off s
  obtain ⟨hoff', -⟩ | ⟨-, hmem', -⟩ | ⟨-, -, b', hinv', rfl⟩ := hends.cases_raise_or_complete
  · omega
  · omega
  · cases hinv.symm.trans hinv'
    exact h

theorem CompensationEnds.err_cases {off : Nat} {s t : State} (h : CompensationEnds off s t) :
    t.status.err = some .invalidOffset ∨ t.status.err = some .addrRange ∨ t.status.err = none := by
  obtain ⟨-, rfl⟩ | ⟨-, -, rfl⟩ | ⟨-, -, b, -, rfl⟩ := h.cases_raise_or_complete
  · exact .inl rfl
  · exact .inr (.inl rfl)
  · exact .inr (.inr rfl)

/-- A compensation without error passed both checks and wrote what R163 says. -/
theorem CompensationEnds.of_err_none {off : Nat} {s t : State} (h : CompensationEnds off s t)
    (herr : t.status.err = none) :
    off + 4 ≤ s.size.toNat ∧ s.addr.toNat + s.size.toNat ≤ s.cfg.memBytes ∧
      ∃ b, gf2Invert (mBuild (s.trailing off)) = some b ∧ t = (s.afterVerify off b).complete := by
  obtain ⟨-, rfl⟩ | ⟨-, -, rfl⟩ | hdone := h.cases_raise_or_complete
  · cases herr
  · cases herr
  · exact hdone

/-! ### The success row (R165) -/

theorem State.crc32_afterWrite {s : State} {off : Nat} {b : Mat} (hoff : off + 4 ≤ s.size.toNat)
    (hinv : gf2Invert (mBuild (s.trailing off)) = some b) :
    crc32 (s.afterWrite off b).bufferBytes = s.target := by
  rw [← State.afterVerify_result, State.afterVerify_result_eq_target hoff hinv]

theorem State.afterVerify_patch (s : State) (off : Nat) (b : Mat) :
    (s.afterVerify off b).patch = mulVec b (s.target ^^^ crc32 (s.baseBytes off)) := rfl

theorem State.afterVerify_mem (s : State) (off : Nat) (b : Mat) :
    (s.afterVerify off b).mem =
      s.mem.writeBytes (s.addr.toNat + off)
        (le4 (mulVec b (s.target ^^^ crc32 (s.baseBytes off)))) := rfl

/-- The end of the command leaves the buffer as the verification pass reads it. -/
theorem State.bufferBytes_complete_putAccResult (s : State) (a r : Word) :
    (s.putAccResult a r).complete.bufferBytes = s.bufferBytes := rfl

/-- The verification pass leaves the target in `RESULT` and the raw form of it in `ACC` (R169,
R170). -/
theorem State.afterVerify_eq_putAccResult_target {s : State} {off : Nat} {b : Mat}
    (hoff : off + 4 ≤ s.size.toNat) (hinv : gf2Invert (mBuild (s.trailing off)) = some b) :
    s.afterVerify off b =
      (s.afterWrite off b).putAccResult (s.target ^^^ 0xFFFFFFFF#32) s.target := by
  rw [State.afterVerify_eq, ← crc32_xor_xorOut, State.crc32_afterWrite hoff hinv, crcXorOut]

/-- Past both checks a compensation is the success row of R165. -/
theorem compensated_of_fits {s : State} {off : Nat} (hoff : off + 4 ≤ s.size.toNat)
    (hmem : s.addr.toNat + s.size.toNat ≤ s.cfg.memBytes) :
    Compensated off s (compensateAt off s) := by
  obtain ⟨b, hinv⟩ := Option.ne_none_iff_exists'.mp (gf2Invert_mBuild_ne_none (s.trailing off))
  refine ⟨b, _, (s.afterWrite off b).mem, ?_, hinv, inverseOf_of_gf2Invert hinv, rfl, ?_, ?_⟩
  · rw [compensateAt_of_fits hoff hmem hinv, State.afterVerify_eq_putAccResult_target hoff hinv]
    dsimp only [State.complete, State.putAccResult, State.afterWrite, State.putMem, State.putPatch,
      State.putInv, State.afterBase, State.putMat, State.putAccBase, State.trailing, Status.succeed]
  · exact fun k hk => Memory.read_writeBytes_le4 hk
  · exact fun a ha => Memory.read_writeBytes_outside ha

/-- R162: with another memory that agrees outside the patch field the command computes the same
values. -/
theorem State.afterVerify_putMem {s : State} {off : Nat} {m : Memory} {b : Mat}
    (hoff : off + 4 ≤ s.size.toNat) (hinv : gf2Invert (mBuild (s.trailing off)) = some b)
    (h : s.SameOutsideField off m) :
    (s.putMem m).afterVerify off b =
      (s.afterVerify off b).putMem ((s.putMem m).afterVerify off b).mem := by
  rw [State.afterVerify_eq_putAccResult_target hoff hinv,
    State.afterVerify_eq_putAccResult_target (s := s.putMem m) hoff hinv, State.afterWrite,
    State.afterBase, State.baseBytes_putMem h]
  rfl

/-- With the same word stored over the only place where they differ, the two memories read alike. -/
theorem State.read_afterVerify_putMem {s : State} {off : Nat} {m : Memory} (b : Mat)
    (h : s.SameOutsideField off m) (a : Nat) :
    ((s.putMem m).afterVerify off b).mem.read a = (s.afterVerify off b).mem.read a := by
  simp only [State.afterVerify_mem, State.baseBytes_putMem h, State.putMem_addr, State.putMem_target,
    State.putMem_mem, Memory.read_writeBytes_le4_eq]
  split
  next ha => exact h a ha
  next => rfl

end Sys2Proof.Machine

open Sys2Proof Sys2Proof.Machine

/-! ### The statements settled -/

/-- Settles O22: the two checks in order, and past them the success row. -/
theorem compResult : Obligations.CompResult :=
  ⟨(roundTrip .comp).2, fun _ =>
    ⟨compensateAt_of_invalidOffset, compensateAt_of_addrRange, compensated_of_fits⟩⟩

/-- Settles O23: `comp.t` compensates at `SIZE - 4`, where the patch field lies in the buffer exactly
when the buffer has 4 bytes. -/
theorem compTResult : Obligations.CompTResult := by
  refine ⟨(roundTrip .compT).2, fun s => ?_⟩
  have hexec : exec .compT s = compensateAt (s.size.toNat - 4) s := execCompT_eq s
  rw [hexec]
  exact ⟨fun hsize => compensateAt_of_invalidOffset (by omega),
    fun hsize => compensateAt_of_addrRange (by omega), fun hsize => compensated_of_fits (by omega)⟩

/-- Settles O30: a compensation ends with an error of the two checks or with none. -/
theorem internalIsNeverRaised : Obligations.InternalIsNeverRaised := by
  intro i s t hi h
  obtain herr | herr | herr := (CompensationEnds.of_exec hi h).err_cases <;> simp [herr]

/-- Settles O47: a zero-advance loses nothing, so the words are independent; and a compensation ends
with an error of the two checks or with none. -/
theorem mBuildIsInvertible : Obligations.MBuildIsInvertible := by
  refine ⟨fun t => ⟨mBuild_nonsingular t, gf2Invert_mBuild_ne_none t, mulVec_mBuild_eq_zAdv t⟩,
    fun i s t hi h => ?_⟩
  obtain herr | herr | herr := (CompensationEnds.of_exec hi h).err_cases <;> simp [herr]

/-- Settles O50: the CRC is a bijection of the patch word; the word computed and the word already there
both give the target. -/
theorem patchWordIsUnique : Obligations.PatchWordIsUnique := by
  refine ⟨fun s off c hoff => (State.crc32_patchedBytes_bijective hoff).existsUnique c,
    fun i s t hi hcrc h herr => ?_⟩
  obtain ⟨hoff, -, b, hinv, rfl⟩ := (CompensationEnds.of_exec hi h).of_err_none herr
  obtain ⟨p, hp⟩ := exists_word_byteOf fun k =>
    s.mem.read (s.addr.toNat + s.patchOffset i + k)
  have hpatch : mulVec b (s.target ^^^ crc32 (s.baseBytes (s.patchOffset i))) = p := by
    apply (State.crc32_patchedBytes_bijective hoff).injective
    simp only [State.crc32_patchedBytes_mulVec _ hoff hinv, State.patchedBytes_of_field hp, hcrc]
  rw [State.complete_mem, State.complete_patch, State.afterVerify_mem, State.afterVerify_patch,
    hpatch]
  refine ⟨fun a => ?_, hp⟩
  rw [Memory.read_writeBytes_le4_eq]
  split
  · rfl
  · rw [hp _ (by omega), Nat.add_sub_cancel' (by omega)]

/-- Settles O51: the buffer read back is the one the verification pass read, whose CRC is the target. -/
theorem forcedCrcIsReadBack : Obligations.ForcedCrcIsReadBack := by
  intro i s t hi h herr
  obtain ⟨haddr, hsize, -, -, -, -, -, hcfg, -⟩ := engineNeverWritesOperands i s t h
  obtain ⟨hoff, hmem, b, hinv, ht⟩ := (CompensationEnds.of_exec hi h).of_err_none herr
  rw [State.afterVerify_eq_putAccResult_target hoff hinv] at ht
  have hcrc : crc32 t.bufferBytes = s.target := by
    rw [ht, State.bufferBytes_complete_putAccResult, State.crc32_afterWrite hoff hinv]
  refine ⟨hsize, hcrc, fun a ha => ?_, ?_⟩
  · rw [ht, State.complete_acc, State.putAccResult_acc, ha, BitVec.xor_assoc, BitVec.xor_self,
      BitVec.xor_zero]
  · obtain ⟨-, hrun⟩ | ⟨hout, -⟩ := execCrc_cases t
    · exact ⟨_, hrun, hcrc, rfl⟩
    · rw [haddr, hsize, hcfg] at hout
      exact absurd hmem (Nat.not_le.mpr hout)

/-- Settles O48: both checks and every value of a success leave out the patch field, and the patch
covers it. -/
theorem patchFieldIsNotRead : Obligations.PatchFieldIsNotRead := by
  intro i s t m hi hagree h
  have hexec : exec i (s.putMem m) = compensateAt (s.patchOffset i) (s.putMem m) :=
    exec_eq_compensateAt hi (s.putMem m)
  change ∃ m', exec i (s.putMem m) = .next (t.putMem m') ∧ _
  rw [hexec]
  obtain ⟨hoff, rfl⟩ | ⟨hoff, hmem, rfl⟩ | ⟨hoff, hmem, b, hinv, rfl⟩ :=
    (CompensationEnds.of_exec hi h).cases_raise_or_complete
  · exact ⟨m, compensateAt_of_invalidOffset hoff, fun herr => nomatch herr⟩
  · exact ⟨m, compensateAt_of_addrRange hoff hmem, fun herr => nomatch herr⟩
  · refine ⟨((s.putMem m).afterVerify (s.patchOffset i) b).mem, ?_,
      fun _ => State.read_afterVerify_putMem b hagree⟩
    rw [compensateAt_of_fits (s := s.putMem m) hoff hmem hinv,
      State.afterVerify_putMem hoff hinv hagree]
    rfl

/-- Settles O49: the patch word enters the CRC through the matrix, and the inverse solves the
equation. -/
theorem patchedCrcIdentity : Obligations.PatchedCrcIdentity := by
  intro s off p hoff
  refine ⟨State.crc32_patchedBytes hoff p, State.crc32_patchedBytes_eq_iff hoff p s.target, ?_⟩
  rintro b hinv rfl
  exact State.crc32_patchedBytes_mulVec s.target hoff hinv

/-- Settles O29: the two stages taken alone, from any state. -/
theorem mustHandleBranchesStay : Obligations.MustHandleBranchesStay := by
  refine ⟨fun off s hinv => ?_, fun s hmem hcrc => ?_⟩
  · simp only [solveMatrix, hinv]
    rfl
  · rw [verifyPatch_eq (State.bufferInRange_iff.mpr hmem), if_neg hcrc, ← crc32_xor_xorOut]
    rfl
end

section
/-! PROOFS. The statements of the family `43_system_and_host.md`: which register stands at an offset of
the window (R26), what a read of it returns (R191), what a write to it sets (R192) or ignores (R193), the
command trigger (R194), `nop` (R195), and which host actions have a next state (R190). -/

namespace Sys2Proof.Machine

/-! ### The register map (R26) -/

/-- Past the twelve single registers an offset is of `MAT`, `INV` or `TABLE`, or reserved. -/
theorem regAt_of_ge {k : WinIndex} (h : 12 ≤ k.val) :
    regAt k =
      if 32 ≤ k.val ∧ k.val < 64 then .mat (Fin.ofNat 32 (k.val - 32))
      else if 64 ≤ k.val ∧ k.val < 96 then .inv (Fin.ofNat 32 (k.val - 64))
      else if 256 ≤ k.val then .table (BitVec.ofNat 8 (k.val - 256))
      else .reserved := by
  obtain ⟨n, hn⟩ := k
  obtain ⟨n, rfl⟩ := Nat.exists_eq_add_of_le' h
  rfl

theorem regAt_mat {k : WinIndex} {i : Fin 32} (h : k.val = 32 + i.val) : regAt k = .mat i := by
  rw [regAt_of_ge (by omega), if_pos (by omega), h, Nat.add_sub_cancel_left, Fin.ofNat_val_eq_self]

/-- The register at the word index `k` together with where `k` lies, one constructor for each part of
the window. -/
inductive WindowPart (k : WinIndex) : Reg → Prop
  | single (h : k.val < 12) : WindowPart k (regAt k)
  | mat (i : Fin 32) (h : k.val = 32 + i.val) : WindowPart k (.mat i)
  | inv (i : Fin 32) (h : k.val = 64 + i.val) : WindowPart k (.inv i)
  | table (n : Byte) (h : k.val = 256 + n.toNat) : WindowPart k (.table n)
  | reserved (h : 12 ≤ k.val ∧ k.val < 32 ∨ 96 ≤ k.val ∧ k.val < 256) : WindowPart k .reserved

theorem windowPart_regAt (k : WinIndex) : WindowPart k (regAt k) := by
  by_cases hk : k.val < 12
  · exact .single hk
  rw [regAt_of_ge (by omega)]
  split
  · exact .mat _ (by rw [Fin.val_ofNat]; omega)
  split
  · exact .inv _ (by rw [Fin.val_ofNat]; omega)
  split
  · exact .table _ (by rw [BitVec.toNat_ofNat]; omega)
  · exact .reserved (by omega)

/-! ### The table of R191 -/

/-- The `STATUS` word as a number: `ERR` stands at bit 4 and `ERRSEEN` at bit 8 (R25). -/
theorem Status.toWord_eq_ofNat (st : Status) :
    st.toWord =
      BitVec.ofNat 32 (st.done.toNat + 16 * errNumber st.err + 256 * st.errSeen.toNat) := by
  obtain ⟨_ | _, err, _ | _⟩ := st <;> rcases err with _ | (_ | _ | _ | _ | _) <;> rfl

theorem Mat.getD_toList (m : Mat) (i : Fin 32) : m.toList.getD i.val 0#32 = m.get i := by
  simp [List.getD_eq_getElem?_getD, Vector.get]

theorem State.windowValue_mat (s : State) (i : Fin 32) :
    s.windowValue (0x080 + 4 * i.val) = s.mat.get i := by
  unfold State.windowValue
  -- the offset is past the twelve single registers
  iterate 12 rw [if_neg (by omega)]
  rw [if_pos (by omega), Nat.add_sub_cancel_left, Nat.mul_div_cancel_left _ (by decide),
    Mat.getD_toList]

theorem State.windowValue_inv (s : State) (i : Fin 32) :
    s.windowValue (0x100 + 4 * i.val) = s.inv.get i := by
  unfold State.windowValue
  -- the offset is past the twelve single registers and `MAT`
  iterate 13 rw [if_neg (by omega)]
  rw [if_pos (by omega), Nat.add_sub_cancel_left, Nat.mul_div_cancel_left _ (by decide),
    Mat.getD_toList]

theorem State.windowValue_reserved (s : State) {o : Nat}
    (h : 0x030 ≤ o ∧ o < 0x080 ∨ 0x180 ≤ o ∧ o < 0x400) : s.windowValue o = 0#32 := by
  unfold State.windowValue
  -- the offset is of no register
  iterate 15 rw [if_neg (by omega)]

/-- A read returns the value of the table, whatever part of the window it is of (R191). -/
theorem WindowPart.regValue_eq {k : WinIndex} {r : Reg} (h : WindowPart k r) (s : State) :
    regValue r s = s.windowValue (4 * k.val) := by
  cases h with
  | single hk =>
    obtain ⟨k, _⟩ := k
    interval_cases k
    · rfl
    · exact s.status.toWord_eq_ofNat
    all_goals rfl
  | mat i hk => rw [hk, Nat.mul_add, State.windowValue_mat, regValue]
  | inv i hk => rw [hk, Nat.mul_add, State.windowValue_inv, regValue]
  | table n hk => rw [hk, Nat.mul_add, State.windowValue_table, regValue]
  | reserved hk => rw [State.windowValue_reserved s (by omega), regValue]

/-! ### Register writes (R192, R193) -/

theorem readOnlyOffset_iff {k : WinIndex} :
    readOnlyOffset (4 * k.val) = true ↔ k.val = 1 ∨ 8 ≤ k.val ∧ k.val < 32 ∨ 64 ≤ k.val := by
  simp only [readOnlyOffset, Bool.or_eq_true, Bool.and_eq_true, beq_iff_eq, decide_eq_true_eq]
  omega

/-- A write to an offset whose register the host cannot write changes nothing (R193). -/
theorem WindowPart.regStore_eq_self {k : WinIndex} {r : Reg} (h : WindowPart k r)
    (hro : readOnlyOffset (4 * k.val) = true) (v : Word) (s : State) :
    regStore r v s = .next s := by
  rw [readOnlyOffset_iff] at hro
  cases h with
  | single hk =>
    -- `STATUS` at 1, the result registers at 8 to 11
    obtain hstatus | hlo : k.val = 1 ∨ 8 ≤ k.val := by omega
    · obtain rfl : k = 1 := Fin.ext hstatus
      rfl
    · obtain ⟨k, _⟩ := k
      interval_cases k <;> rfl
  | mat i hk => omega
  | inv | table | reserved => rfl

/-! ### Which host actions have a next state (R190) -/

/-- The action is one of the interface: a memory address it names is below `MEM_BYTES` (R190). -/
def HostAction.InDomain (c : Config) : HostAction → Prop
  | .memRead a | .memWrite a _ => a.toNat < c.memBytes
  | .regRead _ | .regWrite _ _ | .reset => True

theorem State.nextInDomain_of_nil {s : State} (h : s.pending = []) : s.nextInDomain = true := by
  simp only [State.nextInDomain, h]

theorem State.nextInDomain_iff_of_cons {s : State} {a : HostAction} {rest : List HostAction}
    (h : s.pending = a :: rest) : s.nextInDomain = true ↔ a.InDomain s.cfg := by
  cases a <;> simp [State.nextInDomain, HostAction.InDomain, h]

theorem hostRead_of_ge {s : State} {a : BitVec 32} (h : s.cfg.memBytes ≤ a.toNat) :
    hostRead a s = .refused .hostAddressOutOfRange := by
  simp only [hostRead, State.memRead_of_ge h]

theorem hostWrite_of_ge {s : State} {a : BitVec 32} (v : Byte) (h : s.cfg.memBytes ≤ a.toNat) :
    hostWrite a v s = .refused .hostAddressOutOfRange := by
  simp only [hostWrite, State.memWrite_of_ge v h]

/-- The command trigger has a next state for every word: a command ends, and an illegal word is
defined behaviour (R196, R250). -/
theorem runCommand_completes (w : Word) (s : State) : ∃ t, runCommand w s = .next t := by
  obtain ⟨i, -, hrun⟩ | hillegal := runCommand_cases w s
  · obtain ⟨t, hexec, -⟩ := exec_ends i (s.putCmd w)
    exact ⟨t, hrun.trans hexec⟩
  · exact ⟨_, hillegal⟩

theorem regStore_completes (r : Reg) (v : Word) (s : State) : ∃ t, regStore r v s = .next t := by
  obtain hrun | ⟨t, hstore, -⟩ := regStore_cases r v s
  · rw [hrun]
    exact runCommand_completes v s
  · exact ⟨t, hstore⟩

theorem hostAct_completes {a : HostAction} {s : State} (h : a.InDomain s.cfg) :
    ∃ t, hostAct a s = .next t := by
  cases a with
  | regRead k => exact ⟨_, rfl⟩
  | regWrite k v => exact regStore_completes (regAt k) v s
  | memRead a => exact ⟨_, hostRead_of_lt h⟩
  | memWrite a v => exact ⟨_, hostWrite_of_lt v h⟩
  | reset => exact ⟨_, rfl⟩

theorem hostAct_refused {a : HostAction} {s : State} (h : ¬ a.InDomain s.cfg) :
    hostAct a s = .refused .hostAddressOutOfRange := by
  cases a with
  | memRead a => exact hostRead_of_ge (Nat.not_lt.mp h)
  | memWrite a v => exact hostWrite_of_ge v (Nat.not_lt.mp h)
  | regRead | regWrite | reset => exact absurd trivial h

/-! ### The host's write of a command word (R194) -/

theorem State.withFetchWord_toNat (s : State) (w : Word) :
    s.withFetchWord 32 w.toNat = s.submitCommand w := by
  rw [State.withFetchWord, Nat.mod_eq_of_lt w.isLt, BitVec.ofNat_toNat, BitVec.setWidth_eq]

/-- The next step of a state whose host writes the word of a command to `CMD` runs that command. -/
theorem step_of_cmd_ok {s : State} {w : Word} {i : Instr} {rest : List HostAction}
    (hp : s.pending = .regWrite cmdIndex w :: rest) (hw : decode w = .ok i) :
    step s = exec i ((s.takeAction rest).putCmd w) :=
  (step_of_cmd hp).trans (runCommand_of_ok _ hw)

end Sys2Proof.Machine

open Sys2Proof Sys2Proof.Machine

/-! ### The statements settled -/

/-- Settles O6: a command ends, a register access and a reset always have a next state, and the memory
port has one exactly below `MEM_BYTES`. -/
theorem everyStepCompletes : Obligations.EveryStepCompletes := by
  intro s
  refine ⟨fun h => ?_, fun h => ?_, step_of_nil⟩
  · cases hp : s.pending with
    | nil => exact ⟨s, step_of_nil hp⟩
    | cons a rest =>
      rw [step_of_cons hp]
      exact hostAct_completes ((State.nextInDomain_iff_of_cons hp).mp h)
  · cases hp : s.pending with
    | nil => simp [State.nextInDomain_of_nil hp] at h
    | cons a rest =>
      rw [step_of_cons hp]
      exact hostAct_refused ((State.nextInDomain_iff_of_cons hp).not.mp (by simp [h]))

/-- Settles O8: the value of a read is the table's, part by part of the window. -/
theorem registerReadReturnsTheMappedValue : Obligations.RegisterReadReturnsTheMappedValue := by
  intro s k
  rw [hostAct, (windowPart_regAt k).regValue_eq, State.respond]

/-- Settles O9: each offset is its register's, and a write to `MAT` sets one entry of the vector. -/
theorem operandWriteSetsOneRegister : Obligations.OperandWriteSetsOneRegister := by
  refine fun s v => ⟨rfl, rfl, rfl, rfl, rfl, rfl, fun k i hk => ?_⟩
  refine ⟨s.mat.set i.val v, ?_, Vector.getElem_set_self _, fun j hj => ?_⟩
  · rw [hostAct, regAt_mat (i := i) (by omega), regStore]
  · exact Vector.getElem_set_ne _ _ (Fin.val_ne_of_ne hj.symm)

/-- Settles O10, part by part of the window. -/
theorem readOnlyWritesAreIgnored : Obligations.ReadOnlyWritesAreIgnored :=
  fun s k v hro => (windowPart_regAt k).regStore_eq_self hro v s

/-- Settles O5: the action taken is the command trigger, and the word decodes. -/
theorem stepRunsTheDecodedCommand : Obligations.StepRunsTheDecodedCommand := by
  refine ⟨fun s w i hw => (hostAct_cmd w s).trans (runCommand_of_ok s hw),
    fun s w rest i hp hw => step_of_cmd_ok hp hw, fun s w i hw => ?_⟩
  rw [State.withFetchWord_toNat]
  exact step_of_cmd_ok (rest := s.pending) rfl hw

/-- Settles O15: `nop` is the end of a command and nothing before it. -/
theorem nopResult : Obligations.NopResult := ⟨(roundTrip .nop).2, fun _ => rfl⟩
end

section
/-! PROOFS. The statements of the family `60_exceptions.md`: how a command reports its end in `STATUS`
(R214), the codes it can end with (R215), what an error leaves (R218), and a command issued again
(R219). -/

namespace Sys2Proof.Machine

/-! ### The end of a command decides its next state -/

theorem CompensationEnds.compensateAt_eq {off : Nat} {s t : State} (h : CompensationEnds off s t) :
    compensateAt off s = .next t := by
  obtain ⟨hoff, rfl⟩ | ⟨hoff, hmem, rfl⟩ | ⟨hoff, hmem, b, hinv, rfl⟩ := h.cases_raise_or_complete
  · exact compensateAt_of_invalidOffset hoff
  · exact compensateAt_of_addrRange hoff hmem
  · exact compensateAt_of_fits hoff hmem hinv

/-- The converse of `CommandEnds.of_exec`: the conditions of the ways a command ends exclude each
other. -/
theorem CommandEnds.exec_eq {i : Instr} {s t : State} (h : CommandEnds s i t) :
    exec i s = .next t := by
  cases h with
  | nop | zadv | mbuild | mvmul | mvmulM => rfl
  | crc hmem => exact ((execCrc_cases s).resolve_right fun ⟨hout, _⟩ => by omega).2
  | crcAddrRange hmem => exact ((execCrc_cases s).resolve_left fun ⟨hin, _⟩ => by omega).2
  | minv hinv | minvUnsolvable hinv => simp only [exec, execMinv, hinv]
  | comp hc => exact hc.compensateAt_eq
  | compT hc => exact (execCompT_eq s).trans hc.compensateAt_eq

/-! ### Errors (R218) -/

theorem CompensationEnds.eq_raise {off : Nat} {s t : State} {e : ErrorKind}
    (h : CompensationEnds off s t) (herr : t.status.err = some e) : t = s.raise e := by
  obtain ⟨-, rfl⟩ | ⟨-, -, rfl⟩ | ⟨-, -, b, -, rfl⟩ := h.cases_raise_or_complete
  · cases herr
    rfl
  · cases herr
    rfl
  · cases herr

/-- A command that ends with an error has done nothing but `raise`. -/
theorem CommandEnds.eq_raise {i : Instr} {s t : State} {e : ErrorKind} (h : CommandEnds s i t)
    (herr : t.status.err = some e) : t = s.raise e := by
  cases h with
  | crcAddrRange | minvUnsolvable =>
    cases herr
    rfl
  | comp hc | compT hc => exact hc.eq_raise herr
  | nop | crc | zadv | mbuild | minv | mvmul | mvmulM => cases herr

/-! ### The status a command leaves (R25, R214) -/

/-- `STATUS` after a command that ends with the code `err`, from the `STATUS` before it. -/
def Status.report (st : Status) : Option ErrorKind → Status
  | none => st.succeed
  | some e => st.failWith e

theorem Status.report_eq (st : Status) (err : Option ErrorKind) :
    st.report err = ⟨true, err, st.errSeen || err.isSome⟩ := by
  cases err with
  | none => simp [Status.report, Status.succeed]
  | some e => simp [Status.report, Status.failWith]

theorem CommandEnds.status_eq {i : Instr} {s t : State} (h : CommandEnds s i t) :
    t.status = s.status.report t.status.err := by
  obtain hst | ⟨e, hst⟩ := h.status_cases <;> rw [hst] <;> rfl

theorem CompensationEnds.with_status {off : Nat} {s t : State} (h : CompensationEnds off s t)
    (st : Status) :
    CompensationEnds off { s with status := st } { t with status := st.report t.status.err } := by
  obtain ⟨hoff, rfl⟩ | ⟨hoff, hmem, rfl⟩ | ⟨hoff, hmem, b, hinv, rfl⟩ := h.cases_raise_or_complete
  · exact .invalidOffset hoff
  · exact .addrRange hoff hmem
  · exact .verified hoff hmem hinv (State.afterVerify_result_eq_target hoff hinv)

/-- No command reads the `STATUS` it finds: with another one it ends the same way. -/
theorem CommandEnds.with_status {i : Instr} {s t : State} (h : CommandEnds s i t) (st : Status) :
    CommandEnds { s with status := st } i { t with status := st.report t.status.err } := by
  cases h with
  | nop => exact .nop
  | crc hmem => exact .crc hmem
  | crcAddrRange hmem => exact .crcAddrRange hmem
  | zadv => exact .zadv
  | mbuild => exact .mbuild
  | minv hinv => exact .minv hinv
  | minvUnsolvable hinv => exact .minvUnsolvable hinv
  | mvmul => exact .mvmul
  | mvmulM => exact .mvmulM
  | comp hc => exact .comp (hc.with_status st)
  | compT hc => exact .compT (hc.with_status st)

/-! ### The codes a command can end with (R215) -/

theorem CommandEnds.mayEndWith_err {i : Instr} {s t : State} (h : CommandEnds s i t) :
    mayEndWith i t.status.err = true := by
  cases h with
  | comp hc | compT hc => obtain herr | herr | herr := hc.err_cases <;> rw [herr] <;> rfl
  | _ => rfl

/-- A state from which every command completes: a buffer of four bytes in memory, an invertible
`MAT`. -/
def State.completing : State := { State.reset with size := 4#32, mat := mBuild 0 }

/-- A state whose buffer of four bytes begins at `MEM_BYTES`. -/
def State.outOfRange : State := { State.reset with addr := 0x10000#32, size := 4#32 }

theorem CompensationEnds.of_completing {t : State} (h : CompensationEnds 0 State.completing t) :
    t.status.err = none := by
  obtain ⟨hoff, -⟩ | ⟨-, hmem, -⟩ | ⟨-, -, b, -, rfl⟩ := h.cases_raise_or_complete
  · exact absurd hoff (by decide)
  · exact absurd hmem (by decide)
  · rfl

theorem CommandEnds.of_completing {i : Instr} {t : State} (h : CommandEnds State.completing i t) :
    t.status.err = none := by
  cases h with
  | crcAddrRange hmem => exact absurd hmem (by decide)
  | minvUnsolvable hinv => exact absurd hinv (gf2Invert_mBuild_ne_none 0)
  | comp hc | compT hc => exact hc.of_completing
  | nop | crc | zadv | mbuild | minv | mvmul | mvmulM => rfl

/-- Each code of the table is reached, from the state at reset or one of the two above. -/
theorem exists_commandEnds {i : Instr} {err : Option ErrorKind} (h : mayEndWith i err = true) :
    ∃ s t, CommandEnds s i t ∧ t.status.err = err := by
  match i, err with
  | i, none =>
    obtain ⟨t, -, ht⟩ := exec_ends i State.completing
    exact ⟨_, t, ht, ht.of_completing⟩
  | .crc, some .addrRange => exact ⟨State.outOfRange, _, .crcAddrRange (by decide), rfl⟩
  | .minv, some .unsolvable => exact ⟨State.reset, _, .minvUnsolvable gf2Invert_zero, rfl⟩
  | .comp, some .invalidOffset => exact ⟨State.reset, _, .comp (.invalidOffset (by decide)), rfl⟩
  | .compT, some .invalidOffset => exact ⟨State.reset, _, .compT (.invalidOffset (by decide)), rfl⟩
  | .comp, some .addrRange =>
    exact ⟨State.outOfRange, _, .comp (.addrRange (by decide) (by decide)), rfl⟩
  | .compT, some .addrRange =>
    exact ⟨State.outOfRange, _, .compT (.addrRange (by decide) (by decide)), rfl⟩

/-! ### A command issued again (R219) -/

theorem State.baseBytes_congr {s t : State} {off : Nat} (haddr : t.addr = s.addr)
    (hsize : t.size = s.size) (hmem : s.SameOutsideField off t.mem) :
    t.baseBytes off = s.baseBytes off := by
  rw [← State.baseBytes_putMem hmem]
  simp only [State.baseBytes, haddr, hsize, State.putMem_addr, State.putMem_size, State.putMem_mem]

theorem Compensated.operands {off : Nat} {s t : State} (h : Compensated off s (.next t)) :
    t.addr = s.addr ∧ t.size = s.size ∧ t.target = s.target ∧ t.cfg = s.cfg := by
  obtain ⟨b, p, m, heq, -⟩ := h
  injection heq with heq
  refine ⟨?_, ?_, ?_, ?_⟩ <;> rw [heq]

/-- The success row of R165 determines the next state, memory being in its canonical form. -/
theorem Compensated.unique {off : Nat} {s t t' : State} (h : Compensated off s (.next t))
    (h' : Compensated off s (.next t')) (ht : t.mem.wf = true) (ht' : t'.mem.wf = true) : t = t' := by
  obtain ⟨b, p, m, heq, hinv, -, rfl, hin, hout⟩ := h
  obtain ⟨b', p', m', heq', hinv', -, rfl, hin', hout'⟩ := h'
  injection heq with heq
  injection heq' with heq'
  obtain rfl : b = b' := Option.some.inj (hinv.symm.trans hinv')
  rw [heq] at ht
  rw [heq'] at ht'
  obtain rfl : m = m' := Memory.eq_of_read_eq ht ht' fun a => by
    by_cases ha : a < s.addr.toNat + off ∨ s.addr.toNat + off + 4 ≤ a
    · rw [hout a ha, hout' a ha]
    · obtain ⟨k, rfl⟩ := Nat.exists_eq_add_of_le (show s.addr.toNat + off ≤ a by omega)
      rw [hin k (by omega), hin' k (by omega)]
  rw [heq, heq']

/-- R169: the state of a success row is its own success row: the base pass reads the same bytes, and
the patch word already stands in the patch field. -/
theorem Compensated.again {off : Nat} {s t : State} (h : Compensated off s (.next t)) :
    Compensated off t (.next t) := by
  obtain ⟨haddr, hsize, htarget, -⟩ := h.operands
  obtain ⟨b, p, m, heq, hinv, hinverse, hp, hin, hout⟩ := h
  injection heq with heq
  have hmem : t.mem = m := by rw [heq]
  have hbase : t.baseBytes off = s.baseBytes off :=
    State.baseBytes_congr haddr hsize (hmem ▸ hout)
  rw [Compensated, haddr, hsize, htarget, hbase]
  refine ⟨b, p, m, ?_, hinv, hinverse, hp, hin, fun _ _ => by rw [hmem]⟩
  rw [heq]

theorem CompensationEnds.wf_mem {off : Nat} {s t : State} (h : CompensationEnds off s t)
    (hwf : s.mem.wf = true) : t.mem.wf = true := by
  obtain hmem | ⟨-, -, p, hmem⟩ := h.mem_cases <;> rw [hmem]
  · exact hwf
  · exact Memory.wf_writeBytes _ hwf

/-- R219 for a compensation: an error recurs as it was, and a success row follows itself. -/
theorem CompensationEnds.again {off : Nat} {s t : State} (h : CompensationEnds off s t)
    (hwf : s.mem.wf = true) : CompensationEnds off t t := by
  obtain ⟨hoff, rfl⟩ | ⟨hoff, hmem, rfl⟩ | ⟨hoff, hmem, -⟩ := h.cases_raise_or_complete
  · exact .invalidOffset hoff
  · exact .addrRange hoff hmem
  · have hrow : Compensated off s (.next t) := h.compensateAt_eq ▸ compensated_of_fits hoff hmem
    obtain ⟨haddr, hsize, -, hcfg⟩ := hrow.operands
    rw [← hsize] at hoff
    rw [← haddr, ← hsize, ← hcfg] at hmem
    obtain ⟨u, hu, hends⟩ := compensateAt_ends off t
    have hrow' : Compensated off t (.next u) := hu ▸ compensated_of_fits hoff hmem
    have ht := h.wf_mem hwf
    rwa [← hrow.again.unique hrow' ht (hends.wf_mem ht)] at hends

/-- Issued again in the state it left, a command ends there the same way (R219). -/
theorem CommandEnds.again {i : Instr} {s t : State} (h : CommandEnds s i t)
    (hwf : s.mem.wf = true) : CommandEnds t i t := by
  obtain ⟨-, hsize, -, hoffset, -⟩ := engineNeverWritesOperands i s t h.exec_eq
  cases h with
  | nop => exact .nop
  | crc hmem => exact .crc hmem
  | crcAddrRange hmem => exact .crcAddrRange hmem
  | zadv => exact .zadv
  | mbuild => exact .mbuild
  | minv hinv => exact .minv hinv
  | minvUnsolvable hinv => exact .minvUnsolvable hinv
  | mvmul => exact .mvmul
  | mvmulM => exact .mvmulM
  | comp hc => exact .comp (by rw [hoffset]; exact hc.again hwf)
  | compT hc => exact .compT (by rw [hsize]; exact hc.again hwf)

end Sys2Proof.Machine

open Sys2Proof Sys2Proof.Machine

/-! ### The statements settled -/

/-- Settles O25: the ways to end with an error that can happen do nothing but `raise`. -/
theorem errorsLeaveEverythingElse : Obligations.ErrorsLeaveEverythingElse := fun _ _ _ _ h herr =>
  (CommandEnds.of_exec h).eq_raise herr

/-- Settles O26: no end has a code outside the table, and each code of it is reached. -/
theorem commandsEndWithTheirCodes : Obligations.CommandsEndWithTheirCodes := by
  refine ⟨fun i err => ⟨fun h => ?_, ?_⟩, fun s w hw => ⟨_, runCommand_of_illegal hw s, rfl⟩⟩
  · obtain ⟨s, t, hends, herr⟩ := exists_commandEnds h
    exact ⟨s, t, hends.exec_eq, herr⟩
  · rintro ⟨s, t, h, rfl⟩
    exact (CommandEnds.of_exec h).mayEndWith_err

/-- Settles O27: `STATUS` is written from the sticky bit and the code the command ends with, and none of
the conditions that choose the code reads it. -/
theorem everyCommandReportsInStatus : Obligations.EveryCommandReportsInStatus := by
  intro i s t h
  have hends := CommandEnds.of_exec h
  have hst := hends.status_eq
  rw [Status.report_eq] at hst
  refine ⟨congrArg Status.done hst, congrArg Status.errSeen hst, fun st => ?_⟩
  rw [← Status.report_eq]
  exact (hends.with_status st).exec_eq

/-- Settles O34: a command leaves the conditions and operands it ended by; a second compensation finds
its patch word already stored. -/
theorem commandsAreIdempotent : Obligations.CommandsAreIdempotent := by
  intro i s t hs h
  obtain ⟨hwf, -⟩ := State.memWf_iff.mp hs
  exact ((CommandEnds.of_exec h).again hwf).exec_eq
end

section
/-! PROOFS. The statement of the family `70_reset_and_hazards.md`: what reset clears, and that no other
host action clears `DONE` or `ERRSEEN` (R240). -/

namespace Sys2Proof.Machine

/-! ### The sticky bits (R25, R240) -/

/-- Neither `DONE` nor `ERRSEEN` falls from 1 to 0 between the two statuses. -/
def Status.KeepsSticky (st st' : Status) : Prop :=
  (st.done = true → st'.done = true) ∧ (st.errSeen = true → st'.errSeen = true)

theorem Status.KeepsSticky.refl (st : Status) : st.KeepsSticky st := ⟨id, id⟩

theorem Status.keepsSticky_succeed (st : Status) : st.KeepsSticky st.succeed := ⟨fun _ => rfl, id⟩

theorem Status.keepsSticky_failWith (st : Status) (e : ErrorKind) : st.KeepsSticky (st.failWith e) :=
  ⟨fun _ => rfl, fun _ => rfl⟩

theorem CommandEnds.keepsSticky {i : Instr} {s t : State} (h : CommandEnds s i t) :
    s.status.KeepsSticky t.status := by
  obtain hst | ⟨e, hst⟩ := h.status_cases <;> rw [hst]
  · exact s.status.keepsSticky_succeed
  · exact s.status.keepsSticky_failWith e

/-- Of the host's actions only reset clears a sticky bit: a command word writes `STATUS` by success or
by `raise`, and the others do not write it. -/
theorem ActionEnds.keepsSticky {a : HostAction} {s t : State} (h : ActionEnds s a t)
    (ha : a ≠ .reset) : s.status.KeepsSticky t.status := by
  cases h with
  | command hexec => exact (CommandEnds.of_exec hexec).keepsSticky
  | illegal => exact s.status.keepsSticky_failWith .illegalCommand
  | operands hsame =>
    rw [hsame]
    exact .refl _
  | regRead | memRead | memWrite => exact .refl _
  | reset => exact absurd rfl ha

end Sys2Proof.Machine

open Sys2Proof Sys2Proof.Machine

/-! ### The statement settled -/

/-- Settles O12: reset writes the reset values, `TABLE` is a constant of the window, and each other way
an action ends keeps the sticky bits. -/
theorem resetRestoresTheRegisters : Obligations.ResetRestoresTheRegisters :=
  ⟨fun _ => rfl, State.windowValue_table, fun _ _ _ ha h => (ActionEnds.of_hostAct h).keepsSticky ha⟩
end
